-- ==== Sys2Proof/Word.lean ====
section
/-! DEFINITION. The word types of HUFF: all values are unsigned (00_scope.md R10). -/

namespace Sys2Proof

/-- A 32-bit register, count or command word (00_scope.md R8: CNT_W = 32). -/
abbrev Word := BitVec 32

/-- A byte of a stream; also a symbol of the alphabet, 0x00 to 0xFF (R8: SYM_W = 8, N_SYM = 256). -/
abbrev Byte := BitVec 8

/-- A 9-bit field: a node index or NONE as software sees it, and LIDX (R8: IDX_W = 9). -/
abbrev Idx := BitVec 9

/-- A bit string, its first bit first (00_scope.md R11). -/
abbrev Bits := List Bool

/-- A table with one entry per symbol (10_state.md R32, R40). -/
abbrev SymTable (α : Type) := Vector α 256

end Sys2Proof
end

