-- ==== Sys2Proof/Machine/Bits.lean ====
section
/-! DEFINITION. Bit strings: conversion, padding and cutting into bytes (00_scope.md R11,
20_memory.md R109). -/

namespace Sys2Proof.Machine

/-- `bin_n(v)`: the low `n` bits of `v`, most-significant first (R11). -/
def bin (n v : Nat) : Bits :=
  match n with
  | 0 => []
  | k + 1 => v.testBit k :: bin k v

/-- `val(s)`: the unsigned value of `s` read most-significant bit first (R11). -/
def val (s : Bits) : Nat := s.foldl (fun acc b => 2 * acc + b.toNat) 0

/-- The byte of a bit string of at most 8 bits, the first of 8 bits becoming bit 7 (R11). -/
def byteOf (s : Bits) : Byte := BitVec.ofNat 8 (val s)

/-- `s` padded on the right with '0' bits to a multiple of 8 (30_encoding.md R162). -/
def padByte (s : Bits) : Bits := s ++ List.replicate ((8 - s.length % 8) % 8) false

/-- `s` cut into bytes from its front; a rest of fewer than 8 bits is dropped (R109). -/
def toBytes (s : Bits) : List Byte :=
  match s with
  | b0 :: b1 :: b2 :: b3 :: b4 :: b5 :: b6 :: b7 :: rest =>
    byteOf [b0, b1, b2, b3, b4, b5, b6, b7] :: toBytes rest
  | _ => []

end Sys2Proof.Machine
end

