-- ==== Sys2Proof/Config.lean ====
section
/-! DEFINITION. The parameters of HUFF: the fixed values of HUFF-1 and the OPEN parameters a model takes
(00_scope.md R8, 92_eei_decisions.md). -/

namespace Sys2Proof.Config

/-- The largest count; TOTAL never exceeds it (00_scope.md R8). -/
def cntMax : Word := 0xFFFFFFFF

/-- The number of node records (R8). -/
def nNode : Nat := 511

/-- NONE, the null node index, as a 9-bit field (R8). -/
def noneIdx : Idx := 0x1FF

/-- The longest code GENCODE stores (R8). -/
def codeMax : Nat := 64

/-- The ID register, hardwired (10_state.md R54). -/
def idValue : Word := 0x48554646

/-- The PARAMS register, hardwired: CODE_MAX in bits 7:0 and SYM_W in bits 15:8 (10_state.md R55). -/
def paramsValue : Word := 0x00000840

/-- The OPEN FIFO depths, each an integer 1 to 65535 (00_scope.md R8): the two 16-bit fields of FIFODEPTH. -/
structure Depths where
  inDepth  : BitVec 16
  outDepth : BitVec 16
  deriving DecidableEq, Repr

/-- The constraint R8 puts on the depths: neither is 0 (a 16-bit field cannot exceed 65535). -/
abbrev Depths.Legal (d : Depths) : Prop := d.inDepth ≠ 0 ∧ d.outDepth ≠ 0

/-- The depths R8 recommends. DESIGN CHOICE (log 5): `State.reset` has these; unsafe for a claim about
`State.reset` itself. Claims over all states, or over `State.resetWith`, hold for every depth. -/
def recommended : Depths := { inDepth := 16, outDepth := 16 }

/-- OPEN: the 4096-byte page of the host's address space that holds the window (20_memory.md R103).
A free value: nothing fixes it. -/
opaque huffPage : Nat

/-- HUFF_BASE, 4096-byte aligned (20_memory.md R103). -/
def huffBase : Nat := 4096 * huffPage

end Sys2Proof.Config
end

