-- ==== Sys2Proof/Syntax.lean ====
section
/-! DEFINITION. The twelve commands of HUFF-1 (30_encoding.md R142), one constructor per row of
spec/opcode_table.json. -/

namespace Sys2Proof

/-- A command with its index operand. Symbols have 8 bits, since WRFREQ, RDFREQ and RDCODE take 0 to 255
(30_encoding.md R142); RDNODE's index is the 9-bit IDX field, of which `Instr.WellFormed` excludes NONE. -/
inductive Instr where
  | nop
  | clrfreq
  | count
  | wrfreq (s : Byte)
  | rdfreq (s : Byte)
  | build
  | rdnode (i : Idx)
  | gencode
  | rdcode (s : Byte)
  | emithdr
  | encode
  | decode
  deriving DecidableEq, Repr

end Sys2Proof
end

