-- ==== Sys2Proof/WellFormed.lean ====
section
/-! DEFINITION. Which terms of `Instr` are commands the encoding admits. -/

namespace Sys2Proof

/-- The one check the types leave open: RDNODE takes a node 0 to 510, and IDX = 0x1FF is NONE and no arena
entry (30_encoding.md R143). -/
abbrev Instr.WellFormed (c : Instr) : Prop :=
  match c with
  | .rdnode i => i ≠ Config.noneIdx
  | .nop | .clrfreq | .count | .build | .gencode | .emithdr | .encode | .decode => True
  | .wrfreq _ | .rdfreq _ | .rdcode _ => True

end Sys2Proof
end

