-- ==== Sys2Proof/Decode.lean ====
section
/-! DEFINITION. The command word: its fields, the decoder and the encoder (30_encoding.md R140 to R145). -/

namespace Sys2Proof

/-! ### Fields (R141) -/

/-- OP, bits 7:0. -/
def opField (w : Word) : Byte := w.extractLsb' 0 8

/-- IDX, bits 16:8. -/
def idxField (w : Word) : Idx := w.extractLsb' 8 9

/-- RSV, bits 31:17. -/
def rsvField (w : Word) : BitVec 15 := w.extractLsb' 17 15

/-- The word with RSV = 0 and the given IDX and OP (R141). -/
def commandWord (idx : Idx) (op : Byte) : Word := (0 : BitVec 15) ++ idx ++ op

/-! ### The decoder -/

/-- Why a word is no command (R144). -/
inductive DecodeError where
  /-- OP is not in the opcode map. -/
  | reservedOpcode
  /-- RSV is not 0. -/
  | reservedBits
  /-- IDX is outside the command's legal range. -/
  | indexRange
  deriving DecidableEq, Repr

/-- A command that takes no index: RSV and IDX must be 0 (R141, R142). -/
def decodeNoIndex (w : Word) (c : Instr) : Except DecodeError Instr :=
  if rsvField w ≠ 0 then .error .reservedBits
  else if idxField w ≠ 0 then .error .indexRange
  else .ok c

/-- A command that takes a symbol: RSV must be 0 and IDX at most 255, so bit 16 is 0 (R142, R143). -/
def decodeSymbol (w : Word) (c : Byte → Instr) : Except DecodeError Instr :=
  if rsvField w ≠ 0 then .error .reservedBits
  else if (idxField w).getLsbD 8 then .error .indexRange
  else .ok (c ((idxField w).extractLsb' 0 8))

/-- A command that takes a node index: RSV must be 0 and IDX must not be NONE (R142, R143). -/
def decodeNode (w : Word) (c : Idx → Instr) : Except DecodeError Instr :=
  if rsvField w ≠ 0 then .error .reservedBits
  else if idxField w = Config.noneIdx then .error .indexRange
  else .ok (c (idxField w))

/-- The opcode map (R142). The command is told from OP alone and the other bits are then checked (R140). -/
def decodeWord (w : Word) : Except DecodeError Instr :=
  match (opField w).toNat with
  | 0x00 => decodeNoIndex w .nop
  | 0x01 => decodeNoIndex w .clrfreq
  | 0x02 => decodeNoIndex w .count
  | 0x03 => decodeSymbol w .wrfreq
  | 0x04 => decodeSymbol w .rdfreq
  | 0x10 => decodeNoIndex w .build
  | 0x11 => decodeNode w .rdnode
  | 0x20 => decodeNoIndex w .gencode
  | 0x21 => decodeSymbol w .rdcode
  | 0x30 => decodeNoIndex w .emithdr
  | 0x31 => decodeNoIndex w .encode
  | 0x40 => decodeNoIndex w .decode
  | _ => .error .reservedOpcode

/-- The decoder's answer on a word numbered as spec/opcode_table.json numbers it; a command is one 32-bit
word (R140), and the bits above `nbits` are 0. -/
def decodeTableWord (nbits w : Nat) : Option Instr :=
  match decodeWord (BitVec.ofNat 32 (w % 2 ^ nbits)) with
  | .ok c => some c
  | .error _ => none

/-! ### The encoder -/

/-- OP of a command (R142). -/
def opcodeOf (c : Instr) : Byte :=
  match c with
  | .nop => 0x00
  | .clrfreq => 0x01
  | .count => 0x02
  | .wrfreq _ => 0x03
  | .rdfreq _ => 0x04
  | .build => 0x10
  | .rdnode _ => 0x11
  | .gencode => 0x20
  | .rdcode _ => 0x21
  | .emithdr => 0x30
  | .encode => 0x31
  | .decode => 0x40

/-- IDX of a command: the index zero-extended, 0 where it takes none (R141, R145). -/
def indexOf (c : Instr) : Idx :=
  match c with
  | .wrfreq s | .rdfreq s | .rdcode s => s.setWidth 9
  | .rdnode i => i
  | .nop | .clrfreq | .count | .build | .gencode | .emithdr | .encode | .decode => 0

/-- The word of a command. -/
def encodeWord (c : Instr) : Word := commandWord (indexOf c) (opcodeOf c)

end Sys2Proof
end

