-- ==== Sys2Proof/Machine/State.lean ====
section
/-! DEFINITION. The state of HUFF (10_state.md), the reasons a step can stop, and the state after reset
(70_reset_and_hazards.md R460). -/

namespace Sys2Proof.Machine

/-- An index of the node arena, 0 to 510, or NONE: the 512 values of a 9-bit node index (00_scope.md R8,
log 10). -/
abbrev NodeRef := Option (Fin 511)

/-- One record of the node arena (10_state.md R35). -/
structure Node where
  used   : Bool
  leaf   : Bool
  sym    : Byte
  left   : NodeRef
  right  : NodeRef
  weight : Word
  deriving DecidableEq, Repr

/-- The blank record (R36). -/
def Node.blank : Node :=
  { used := false, leaf := false, sym := 0, left := none, right := none, weight := 0 }

/-- The node arena NODE[0..510] (R35). -/
abbrev Arena := Vector Node 511

/-- One entry of the code table (R40): the code is the low `len` bits of `bits`, first bit highest. -/
structure CodeEntry where
  valid : Bool
  len   : BitVec 7
  bits  : BitVec 64
  deriving DecidableEq, Repr

/-- The entry of a symbol that has no code, as reset and GENCODE write it (R40, 42_code_table.md R265). -/
def CodeEntry.blank : CodeEntry := { valid := false, len := 0, bits := 0 }

/-- One input-FIFO entry (R44). -/
inductive Token where
  | data (b : Byte)
  | eos
  deriving DecidableEq, Repr

/-- The decoder's states (R43). -/
inductive DState where
  | idle
  | readingTree
  | streamingBits
  | done
  deriving DecidableEq, Repr

/-- Where DECODE's tree phase stands (44_decoder.md R335): before a tag, or inside the 8 symbol bits of the
leaf that gets record `i`, with `k` of them read into `acc`. -/
inductive TreePos where
  | tag
  | sym (i : Fin 511) (k : Fin 8) (acc : Byte)
  deriving DecidableEq, Repr

/-- The engine's program point (R52): acceptance, or one wait point of a command's pseudocode with the
locals it holds there. DESIGN CHOICE (log 8): R52 leaves the encoding open. -/
inductive Point where
  /-- The body has not started; also the value while the engine is idle. -/
  | accepted
  /-- COUNT at `pop_in()`. -/
  | countPop
  /-- EMITHDR at `push_out(b)`, with the header bytes that follow. -/
  | hdrPush (b : Byte) (rest : List Byte)
  /-- ENCODE at `pop_in()`. -/
  | encPop
  /-- ENCODE at `push_out` of a complete byte of ACC. -/
  | encPush
  /-- ENCODE at `push_out` of the padded last byte, after EOS. -/
  | encFlush
  /-- DECODE's count phase at `pop_in()`, with `k` bytes read into `n`. -/
  | decCount (k : Fin 4) (n : Word)
  /-- DECODE's tree phase at `getbit()`'s `pop_in()`. -/
  | decTree (pos : TreePos)
  /-- DECODE's degenerate output at `push_out`. -/
  | decDegen
  /-- DECODE's token loop at `pop_in()`. -/
  | decTok
  /-- DECODE's token loop at `push_out` of the leaf CUR stands at. -/
  | decPush
  deriving DecidableEq, Repr

/-- One event of the total order of host accesses and engine micro-steps (00_scope.md R13, log 1). Accesses
are given by their offset in the window (log 6) and their width in bits; a width other than 32, an offset
that is no multiple of 4 and a fetch are outside the interface (20_memory.md R104, R106; log 9). -/
inductive Event where
  /-- A host read. -/
  | rd (width : Nat) (off : BitVec 12)
  /-- A host write of `v`. -/
  | wr (width : Nat) (off : BitVec 12) (v : Word)
  /-- A host instruction fetch from the window. -/
  | fetch (off : BitVec 12)
  /-- The engine's turn: one micro-step if one is enabled. -/
  | engine
  /-- `rst_n` goes low and rises again (70_reset_and_hazards.md R460, R462). -/
  | hardReset
  deriving DecidableEq, Repr

/-- Everything the spec gives HUFF (INVENTORY.md, State), and the model's own `sched` and `reads`. -/
structure State where
  /-- FREQ (R32). -/
  freq : SymTable Word
  /-- NODE (R35). -/
  node : Arena
  /-- CODE (R40). -/
  code : SymTable CodeEntry
  /-- TOTAL (R33). -/
  total : Word
  /-- NSYM (R34). -/
  nsym : BitVec 9
  /-- DCOUNT (R68). -/
  dcount : Word
  /-- ROOT (R37). -/
  root : NodeRef
  /-- TREE_VALID (R38). -/
  treeValid : Bool
  /-- TREE_DEC (R69). -/
  treeDec : Bool
  /-- CODES_VALID (R41). -/
  codesValid : Bool
  /-- ACC (R42). -/
  acc : Bits
  /-- DSTATE (R43, R59). -/
  dstate : DState
  /-- The node the walk in progress stands at, `none` when no walk is in progress (R43); the register CUR is read
  from it and ROOT by `State.cur` (Ops.lean, log 19). -/
  walk : NodeRef
  /-- DBYTE (R43). -/
  dbyte : Byte
  /-- DBITS, 0 to 8 (R43). -/
  dbits : BitVec 4
  /-- NEXT, 0 to 511 (R43). -/
  next : Fin 512
  /-- PSTACK, its top first (R43). -/
  pstack : List (Fin 511)
  /-- SEEN (R43). -/
  seen : SymTable Bool
  /-- The input FIFO, oldest token first (R44). -/
  inFifo : List Token
  /-- The output FIFO, oldest byte first (R44). -/
  outFifo : List Byte
  /-- BUSY (R45). -/
  busy : Bool
  /-- The program point (R52). -/
  point : Point
  /-- LOP (R46). -/
  lop : Byte
  /-- LIDX (R46). -/
  lidx : Idx
  /-- LARG (R46). -/
  larg : Word
  /-- OUTBYTES (R47). -/
  outbytes : Word
  /-- EMITTED (R48). -/
  emitted : Word
  /-- DONE (R49). -/
  done : Bool
  /-- ERR (R49). -/
  err : Bool
  /-- PARTIAL (R49). -/
  partialEnd : Bool
  /-- TRUNC (R49). -/
  trunc : Bool
  /-- EXTRA (R49). -/
  extra : Bool
  /-- INOVF (R49). -/
  inovf : Bool
  /-- CMDREJ (R49). -/
  cmdrej : Bool
  /-- ERRCODE (R50). -/
  errcode : BitVec 4
  /-- CTRL.IE_DONE (R57). -/
  ieDone : Bool
  /-- CTRL.IE_ERR (R57). -/
  ieErr : Bool
  /-- ARG (R61). -/
  arg : Word
  /-- RES0 (R62). -/
  res0 : Word
  /-- RES1 (R62). -/
  res1 : Word
  /-- RES2 (R62). -/
  res2 : Word
  /-- FIFODEPTH.IN_DEPTH, hardwired (R56). -/
  inDepth : BitVec 16
  /-- FIFODEPTH.OUT_DEPTH, hardwired (R56). -/
  outDepth : BitVec 16
  /-- The MODEL's: the events still to come, in order (log 1). -/
  sched : List Event
  /-- The MODEL's: what the host's reads returned, offset and value, oldest first (45_host_interface.md R398;
  log 4). -/
  reads : List (BitVec 12 × Word)
  deriving DecidableEq, Repr

/-- The state after reset of a HUFF with the given FIFO depths (70_reset_and_hazards.md R460). -/
def State.resetWith (d : Config.Depths) : State where
  freq := Vector.replicate 256 0
  node := Vector.replicate 511 Node.blank
  code := Vector.replicate 256 CodeEntry.blank
  total := 0
  nsym := 0
  dcount := 0
  root := none
  treeValid := false
  treeDec := false
  codesValid := false
  acc := []
  dstate := .idle
  walk := none
  dbyte := 0
  dbits := 0
  next := 0
  pstack := []
  seen := Vector.replicate 256 false
  inFifo := []
  outFifo := []
  busy := false
  point := .accepted
  lop := 0
  lidx := 0
  larg := 0
  outbytes := 0
  emitted := 0
  done := false
  err := false
  partialEnd := false
  trunc := false
  extra := false
  inovf := false
  cmdrej := false
  errcode := 0
  ieDone := false
  ieErr := false
  arg := 0
  res0 := 0
  res1 := 0
  res2 := 0
  inDepth := d.inDepth
  outDepth := d.outDepth
  sched := []
  reads := []

/-- The machine right after reset, with the recommended depths (R460, R8; log 5). Nothing is scheduled:
HUFF runs nothing by itself (R460, log 17). -/
def State.reset : State := State.resetWith Config.recommended

/-- Why the machine stops. No run from reset meets one: the spec gives every run a defined result
(93_implementation_defined.md), and these name the states it rules out. -/
inductive Fault where
  /-- Raised by the engine when BUSY = 1 and the latched word is no command, or the program point is not one
  of the latched command's (10_state.md R52). Safe: the spec gives such a state no step (log 12). -/
  | strayPoint
  /-- Raised by GENCODE, EMITHDR and DECODE when a walk in NODE meets NONE or an unused record, which
  R337 and R342 of 44_decoder.md rule out. Safe (log 13). -/
  | brokenTree
  deriving DecidableEq, Repr

/-- What the model gives no meaning. -/
inductive Refusal where
  /-- Raised by a refused arm of `exec`; no arm is one. Safe. -/
  | notModelled (mnemonic : String)
  /-- Raised by a host access of another width than 32 bits: the spec gives it no meaning and has a model
  refuse it (20_memory.md R104). Safe. -/
  | accessWidth
  /-- Raised by a host access at an offset that is no multiple of 4 (R104). Safe. -/
  | accessAlignment
  /-- Raised by a host instruction fetch from the window (R106). Safe. -/
  | instructionFetch
  deriving DecidableEq, Repr

/-- What a step or a meaning answers. -/
abbrev Result := Host.Outcome State Fault Refusal

end Sys2Proof.Machine
end

