-- ==== Sys2Proof/Machine/Ops.lean ====
section
/-! DEFINITION. The operations every command uses: tables, FIFOs, the end of a command, the error, and
acceptance. -/

namespace Sys2Proof.Machine

/-! ### Tables -/

/-- `T[b]` of a table over symbols. -/
def symGet {α : Type} (t : SymTable α) (b : Byte) : α := t[b.toNat]'b.isLt

/-- `T[b] <- v`. -/
def symPut {α : Type} (t : SymTable α) (b : Byte) (v : α) : SymTable α := t.set b.toNat v b.isLt

/-- The 256 symbols in ascending order. -/
def allSymbols : List Byte := (List.range 256).map (BitVec.ofNat 8)

/-- The arena with every record blank (10_state.md R36). -/
def blankArena : Arena := Vector.replicate 511 Node.blank

/-- The code table with no entry valid (42_code_table.md R265). -/
def blankCodes : SymTable CodeEntry := Vector.replicate 256 CodeEntry.blank

/-- `NODE[i] <- n`. -/
def State.setNode (i : Fin 511) (n : Node) (s : State) : State :=
  { s with node := s.node.set i n }

/-- CUR: the node the current tree walk stands at; ROOT when no walk is in progress (10_state.md R43). DESIGN CHOICE
(log 19): State holds the walk, and CUR is read from it and ROOT, so that no write of ROOT writes CUR. -/
def State.cur (s : State) : NodeRef := s.walk.or s.root

/-- `CUR <- ROOT`: no walk is in progress (44_decoder.md R338, R340, R344). -/
def endWalk (s : State) : State := { s with walk := none }

/-- `CUR <- d`: the walk stands at record `d` (44_decoder.md R340). -/
def walkTo (d : Fin 511) (s : State) : State := { s with walk := some d }

/-! ### FIFOs (10_state.md R44) -/

/-- `pop_in()`: the oldest token and the state without it; `none` when the engine waits (00_scope.md R12). -/
def popIn (s : State) : Option (Token × State) :=
  match s.inFifo with
  | [] => none
  | t :: rest => some (t, { s with inFifo := rest })

/-- `push_out(b)`: appends `b` and counts it in OUTBYTES modulo 2^32; `none` when the output FIFO holds
OUT_DEPTH bytes and the engine waits (R12, 10_state.md R47). -/
def pushOut (b : Byte) (s : State) : Option State :=
  if s.outFifo.length < s.outDepth.toNat then
    some { s with outFifo := s.outFifo ++ [b], outbytes := s.outbytes + 1 }
  else none

/-! ### The end of a command -/

/-- The errors and their codes (60_exceptions.md R410). -/
inductive HuffError where
  | illegalCmd
  | sequence
  | symNotInTree
  | countOverflow
  | malformedHeader
  | codeTooLong
  deriving DecidableEq, Repr

/-- ERRCODE of an error (R410). -/
def HuffError.toCode (e : HuffError) : BitVec 4 :=
  match e with
  | .illegalCmd => 1
  | .sequence => 2
  | .symNotInTree => 3
  | .countOverflow => 4
  | .malformedHeader => 5
  | .codeTooLong => 6

/-- `raise Error(code)`, HUFF's exception entry: ERR, ERRCODE and BUSY, and nothing else (60_exceptions.md
R420). There is no saved state and no handler; the engine becomes idle. -/
def raiseError (e : HuffError) (s : State) : State :=
  { s with err := true, errcode := e.toCode, busy := false, point := .accepted }

/-- The return from an error: the host's write of 1 to STATUS bit 2 clears ERR and ERRCODE (R424). -/
def clearError (s : State) : State := { s with err := false, errcode := 0 }

/-- `finish()`: the successful end of a command (R422). -/
def finish (s : State) : State := { s with done := true, busy := false, point := .accepted }

/-- The engine goes to program point `p` (10_state.md R52). -/
def goto (p : Point) (s : State) : State := { s with point := p }

/-! ### Acceptance (45_host_interface.md R380 to R383) -/

/-- The first lines of R382: BUSY, the latches, and DSTATE for a command other than DECODE. -/
def latch (c : Instr) (s : State) : State :=
  { s with
    busy := true
    point := .accepted
    lop := opField (encodeWord c)
    lidx := idxField (encodeWord c)
    larg := s.arg
    dstate := if c = .decode then s.dstate else .idle }

/-- A legal command word presented to an idle engine: DONE is cleared, a false precondition raises SEQUENCE
(R380, R381), and otherwise the command is latched and its acceptance actions are done (R382, R383). -/
def accept (c : Instr) (pre : Bool) (actions : State → State) (s : State) : State :=
  if pre then actions (latch c { s with done := false })
  else raiseError .sequence { s with done := false }

/-- A command: acceptance when the engine is idle, one micro-step of the body when it runs (00_scope.md R13;
log 7). -/
def runCommand (c : Instr) (pre : Bool) (actions : State → State) (body : State → Result) (s : State) : Result :=
  if s.busy then body s else .next (accept c pre actions s)

/-- The body of a single-step command: all of it is the one micro-step after acceptance (00_scope.md R14). -/
def singleStep (body : State → Result) (s : State) : Result :=
  if s.point = .accepted then body s else .fault .strayPoint

end Sys2Proof.Machine
end

