-- ==== Sys2Proof/Machine/Operands.lean ====
section
/-! DEFINITION. Operand and result forms: node indices as 9-bit fields, the FIFO words and the result words
(30_encoding.md R145 to R150). -/

namespace Sys2Proof.Machine

/-- A node index as software sees it: NONE is 0x1FF (00_scope.md R8). -/
def refBits (r : NodeRef) : Idx :=
  match r with
  | none => Config.noneIdx
  | some i => BitVec.ofNat 9 i.val

/-- The arena index a 9-bit field names, none for NONE (R8, R145: used unsigned, with no scaling). -/
def refOfBits (b : Idx) : NodeRef :=
  if h : b.toNat < 511 then some ⟨b.toNat, h⟩ else none

/-- The token of a DIN write word: bit 8 EOS, else DATA in bits 7:0; bits 31:9 are ignored (R146). -/
def dinToken (v : Word) : Token :=
  if v.getLsbD 8 then .eos else .data (v.extractLsb' 0 8)

/-- The DOUT read word of a byte: VALID in bit 8 (R147). -/
def doutWord (b : Byte) : Word := (1 : BitVec 24) ++ b

/-- RES0 of RDNODE: USED 31, LEAF 30, RIGHT 25:17, LEFT 16:8, SYM 7:0 (R150). -/
def nodeWord (n : Node) : Word :=
  BitVec.ofBool n.used ++ BitVec.ofBool n.leaf ++ (0 : BitVec 4) ++ refBits n.right ++ refBits n.left ++ n.sym

/-- RES0 of RDCODE: VALID 31, LEN 6:0 (R150). -/
def codeWord (c : CodeEntry) : Word := BitVec.ofBool c.valid ++ (0 : BitVec 24) ++ c.len

/-- A read-back command's result: all three RES registers are written (10_state.md R62). -/
def setResult (r0 r1 r2 : Word) (s : State) : State := { s with res0 := r0, res1 := r1, res2 := r2 }

/-- The code of an entry as a bit string, `bin_LEN(BITS[LEN-1:0])` (10_state.md R40). -/
def CodeEntry.toBits (c : CodeEntry) : Bits := bin c.len.toNat c.bits.toNat

end Sys2Proof.Machine
end

