-- ==== Sys2Proof/Machine/Flags.lean ====
section
/-! DEFINITION. The status word, the interrupt line and the derived counts (10_state.md R33, R34, R51, R58,
R65). -/

namespace Sys2Proof.Machine

/-- The exact sum of the FREQ entries, no wrap (40_frequency.md R203, R210). -/
def freqSum (f : SymTable Word) : Nat := (f.toList.map BitVec.toNat).sum

/-- The number of symbols with FREQ > 0 (10_state.md R34). -/
def freqCount (f : SymTable Word) : Nat := f.toList.countP (fun v => decide (v ≠ 0))

/-- DEGEN: a valid one-leaf tree (R51). -/
def State.degen (s : State) : Bool :=
  match s.root with
  | none => false
  | some r => s.treeValid && (s.node[r]).leaf

/-- The level of the `irq` output and of STATUS.IRQ (R51, 60_exceptions.md R430). -/
def State.irq (s : State) : Bool := (s.done && s.ieDone) || (s.err && s.ieErr)

/-- DSTATE as its two bits (R43). -/
def DState.toBits (d : DState) : BitVec 2 :=
  match d with
  | .idle => 0
  | .readingTree => 1
  | .streamingBits => 2
  | .done => 3

/-- The STATUS read word, bit 31 first (R58). -/
def statusWord (s : State) : Word :=
  (0 : BitVec 13) ++ BitVec.ofBool s.treeDec ++ s.dstate.toBits ++ BitVec.ofBool s.cmdrej ++
  BitVec.ofBool s.inovf ++ BitVec.ofBool s.extra ++ BitVec.ofBool s.trunc ++ BitVec.ofBool s.partialEnd ++
  BitVec.ofBool s.degen ++ BitVec.ofBool s.codesValid ++ BitVec.ofBool s.treeValid ++ s.errcode ++
  BitVec.ofBool s.irq ++ BitVec.ofBool s.err ++ BitVec.ofBool s.done ++ BitVec.ofBool s.busy

/-- The CTRL read word: IE_DONE bit 1, IE_ERR bit 2, the rest 0 (R57). -/
def ctrlWord (s : State) : Word := (0 : BitVec 29) ++ BitVec.ofBool s.ieErr ++ BitVec.ofBool s.ieDone ++ (0 : BitVec 1)

/-- The FIFOSTAT read word: IN_COUNT 15:0, OUT_COUNT 31:16 (R65). The counts fit, since no FIFO exceeds its
16-bit depth (DEDUCED, log 18). -/
def fifostatWord (s : State) : Word :=
  BitVec.ofNat 16 s.outFifo.length ++ BitVec.ofNat 16 s.inFifo.length

/-- The FIFODEPTH read word: IN_DEPTH 15:0, OUT_DEPTH 31:16 (R56). -/
def fifodepthWord (s : State) : Word := s.outDepth ++ s.inDepth

/-- A STATUS write, write-one-to-clear (45_host_interface.md R377); a 1 in bit 2 also clears ERRCODE. -/
def statusClear (v : Word) (s : State) : State :=
  { (if v.getLsbD 2 then clearError s else s) with
    done := s.done && !v.getLsbD 1
    partialEnd := s.partialEnd && !v.getLsbD 11
    trunc := s.trunc && !v.getLsbD 12
    extra := s.extra && !v.getLsbD 13
    inovf := s.inovf && !v.getLsbD 14
    cmdrej := s.cmdrej && !v.getLsbD 15 }

end Sys2Proof.Machine
end

