-- ==== Sys2Proof/Machine/Tree.lean ====
section
/-! DEFINITION. The tree held in the node arena: reading it out, its serialisation and its paths
(30_encoding.md R162, 42_code_table.md R262). -/

namespace Sys2Proof.Machine

/-- A strict binary tree with symbols at its leaves: every internal node has exactly two children
(10_state.md R36). -/
inductive Tree where
  | leaf (sym : Byte)
  | node (l r : Tree)
  deriving DecidableEq, Repr

/-- The tree below record `i`, read at most `fuel` levels deep; `none` when a walk from `i` meets NONE, an
unused record or does not end, which a complete tree rules out (44_decoder.md R337; log 13). -/
def treeAt (fuel : Nat) (a : Arena) (i : Fin 511) : Option Tree :=
  match fuel with
  | 0 => none
  | k + 1 =>
    if (a[i]).used then
      if (a[i]).leaf then some (.leaf (a[i]).sym)
      else
        match (a[i]).left, (a[i]).right with
        | some l, some r =>
          match treeAt k a l, treeAt k a r with
          | some tl, some tr => some (.node tl tr)
          | _, _ => none
        | _, _ => none
    else none

/-- The whole tree below `r`: no walk is longer than the arena has records. -/
def wholeTree (a : Arena) (r : Fin 511) : Option Tree := treeAt Config.nNode a r

/-- `ser(n)`: pre-order, tag 1 and the symbol's 8 bits for a leaf, tag 0 for an internal node, left before
right (30_encoding.md R162). -/
def ser (t : Tree) : Bits :=
  match t with
  | .leaf s => true :: bin 8 s.toNat
  | .node l r => false :: (ser l ++ ser r)

/-- Every leaf's symbol with its path: left appends '0', right appends '1' (42_code_table.md R262). -/
def leafPaths (t : Tree) : List (Byte × Bits) :=
  match t with
  | .leaf s => [(s, [])]
  | .node l r =>
    (leafPaths l).map (fun x => (x.1, false :: x.2)) ++ (leafPaths r).map (fun x => (x.1, true :: x.2))

/-- The symbols of the leaves, left to right: the composite label of the root as a list
(41_tree_builder.md R233). -/
def leafSymbols (t : Tree) : List Byte :=
  match t with
  | .leaf s => [s]
  | .node l r => leafSymbols l ++ leafSymbols r

end Sys2Proof.Machine
end

