-- ==== Sys2Proof/Machine/BitPacker.lean ====
section
/-! DEFINITION. The header serialiser and the bit packer: EMITHDR and ENCODE (43_bit_packer.md). -/

namespace Sys2Proof.Machine

/-! ### EMITHDR (R295) -/

/-- The header's bytes for count `n` and tree `t`, `none` being the empty tree: HDR and then TREE padded to
whole bytes (R295, 30_encoding.md R160 to R162). -/
def headerBytes (n : Word) (t : Option Tree) : List Byte :=
  match t with
  | none => toBytes (bin 32 n.toNat)
  | some t => toBytes (bin 32 n.toNat ++ padByte (ser t))

/-- The `push_out` loop over the bytes still to push: the next wait point, or the end (R295). -/
def hdrNext (bytes : List Byte) (s : State) : State :=
  match bytes with
  | [] => finish s
  | b :: rest => goto (.hdrPush b rest) s

/-- EMITHDR's micro-steps (R295, R300): the header is formed in the first, each later one pushes a byte. -/
def emithdrBody (s : State) : Result :=
  match s.point with
  | .accepted =>
    match s.root with
    | none => .next (hdrNext (headerBytes s.total none) s)
    | some r =>
      match wholeTree s.node r with
      | none => .fault .brokenTree
      | some t => .next (hdrNext (headerBytes s.total (some t)) s)
  | .hdrPush b rest =>
    match pushOut b s with
    | none => .next s
    | some s' => .next (hdrNext rest s')
  | _ => .fault .strayPoint

/-- EMITHDR (R295); it needs TREE_VALID = 1 and TREE_DEC = 0 (45_host_interface.md R381). -/
def execEmithdr (s : State) : Result := runCommand .emithdr (s.treeValid && !s.treeDec) id emithdrBody s

/-! ### ENCODE (R305) -/

/-- The inner loop's test: with a complete byte in ACC the engine goes on to push it, else to the next
token (R305, R292). -/
def encNext (s : State) : State := if 8 ≤ s.acc.length then goto .encPush s else goto .encPop s

/-- ENCODE on one popped token (R305). At EOS the final flush waits to push if ACC holds bits (R310); a byte
with no code raises SYM_NOT_IN_TREE with ACC discarded (log 11); any other byte's code is appended. -/
def encToken (t : Token) (s : State) : State :=
  match t with
  | .eos => if s.acc = [] then finish s else goto .encFlush s
  | .data b =>
    if (symGet s.code b).valid then
      encNext { s with acc := s.acc ++ (symGet s.code b).toBits, emitted := s.emitted + 1 }
    else raiseError .symNotInTree { s with acc := [] }

/-- ENCODE's micro-steps (R305). -/
def encodeBody (s : State) : Result :=
  match s.point with
  | .accepted => .next (goto .encPop s)
  | .encPop =>
    match popIn s with
    | none => .next s
    | some (t, s') => .next (encToken t s')
  | .encPush =>
    match pushOut (byteOf (s.acc.take 8)) s with
    | none => .next s
    | some s' => .next (encNext { s' with acc := s'.acc.drop 8 })
  | .encFlush =>
    match pushOut (byteOf (padByte s.acc)) s with
    | none => .next s
    | some s' => .next (finish { s' with acc := [] })
  | _ => .fault .strayPoint

/-- ENCODE (R305); it needs CODES_VALID (45_host_interface.md R381) and starts with EMITTED = 0 and ACC
empty (R383). -/
def execEncode (s : State) : Result :=
  runCommand .encode s.codesValid (fun s => { s with emitted := 0, acc := [] }) encodeBody s

end Sys2Proof.Machine
end

