-- ==== Sys2Proof/Machine/CodeTable.lean ====
section
/-! DEFINITION. The code-table generator: GENCODE and RDCODE (42_code_table.md). -/

namespace Sys2Proof.Machine

/-- The entry of a code given as a path (R265). -/
def entryOfPath (p : Bits) : CodeEntry :=
  { valid := true, len := BitVec.ofNat 7 p.length, bits := BitVec.ofNat 64 (val p) }

/-- CODE with exactly the given symbols' codes valid (R265). -/
def fillCodes (ps : List (Byte × Bits)) : SymTable CodeEntry :=
  ps.foldl (fun t x => symPut t x.1 (entryOfPath x.2)) blankCodes

/-- GENCODE on the leaves' paths (R265): a path longer than CODE_MAX raises CODE_TOO_LONG and leaves CODE. -/
def gencodePaths (ps : List (Byte × Bits)) (s : State) : State :=
  if ps.any (fun x => decide (Config.codeMax < x.2.length)) then
    raiseError .codeTooLong { s with codesValid := false }
  else finish { s with code := fillCodes ps, codesValid := true }

/-- GENCODE's body (R265); the empty tree has no leaf (R267). The leaves are visited depth-first from ROOT
(R273; DEDUCED that these are all the used leaves, log 13). -/
def gencodeBody (s : State) : Result :=
  match s.root with
  | none => .next (finish { s with code := blankCodes, codesValid := true })
  | some r =>
    match wholeTree s.node r with
    | none => .fault .brokenTree
    | some t => .next (gencodePaths (leafPaths t) s)

/-- GENCODE (R265); it needs TREE_VALID (45_host_interface.md R381). -/
def execGencode (s : State) : Result := runCommand .gencode s.treeValid id (singleStep gencodeBody) s

/-- RDCODE (R275). -/
def execRdcode (b : Byte) (s : State) : Result :=
  runCommand (.rdcode b) true id
    (singleStep fun s => .next (finish (setResult (codeWord (symGet s.code b))
      ((symGet s.code b).bits.extractLsb' 0 32) ((symGet s.code b).bits.extractLsb' 32 32) s))) s

end Sys2Proof.Machine
end

