-- ==== Sys2Proof/Machine/TreeBuilder.lean ====
section
/-! DEFINITION. The tree builder: BUILD and RDNODE (41_tree_builder.md). -/

namespace Sys2Proof.Machine

/-! ### Selection (R234) -/

/-- Whether record `i` comes before record `j` by the key (WEIGHT, index) (R234). -/
def keyBefore (a : Arena) (i j : Fin 511) : Bool :=
  decide ((a[i]).weight < (a[j]).weight ∨ ((a[i]).weight = (a[j]).weight ∧ i < j))

/-- The element of `i :: rest` with the least key (R240, argmin). -/
def leastKey (a : Arena) (i : Fin 511) (rest : List (Fin 511)) : Fin 511 :=
  rest.foldl (fun m j => if keyBefore a j m then j else m) i

/-- Selects the working set's entry with the least key and removes it (R240). -/
def takeLeast (a : Arena) (set : List (Fin 511)) : Option (Fin 511 × List (Fin 511)) :=
  match set with
  | [] => none
  | i :: rest => some (leastKey a i rest, (i :: rest).erase (leastKey a i rest))

/-! ### The merge (R240) -/

/-- The arena index of symbol `b`'s leaf: the symbol value (R232). -/
def leafIndex (b : Byte) : Fin 511 := ⟨b.toNat, Nat.lt_trans b.isLt (by decide)⟩

/-- The symbols with FREQ > 0, ascending. -/
def presentSymbols (f : SymTable Word) : List Byte := allSymbols.filter (fun b => symGet f b ≠ 0)

/-- The record of a leaf (R240). -/
def leafNode (b : Byte) (w : Word) : Node :=
  { used := true, leaf := true, sym := b, left := none, right := none, weight := w }

/-- The record of an internal node (R240). -/
def innerNode (l r : NodeRef) (w : Word) : Node :=
  { used := true, leaf := false, sym := 0, left := l, right := r, weight := w }

/-- The blanked arena with the leaves of the present symbols (R240). -/
def seedLeaves (f : SymTable Word) : Arena :=
  (presentSymbols f).foldl (fun a b => a.set (leafIndex b) (leafNode b (symGet f b))) blankArena

/-- The merge loop from record `k` on (R240): while two entries remain, the first selected becomes LEFT, the
second RIGHT, and the merged record joins the set. Answers the arena and the last entry. `fuel` is the size
of the set, which falls by one at each merge. -/
def mergeAll (fuel : Nat) (a : Arena) (k : Fin 511) (set : List (Fin 511)) : Arena × NodeRef :=
  match fuel with
  | 0 => (a, none)
  | n + 1 =>
    match takeLeast a set with
    | none => (a, none)
    | some (x, set1) =>
      match takeLeast a set1 with
      | none => (a, some x)
      | some (y, set2) =>
        mergeAll n (a.set k (innerNode (some x) (some y) ((a[x]).weight + (a[y]).weight))) (k + 1) (set2 ++ [k])

/-- NODE and ROOT as BUILD makes them from FREQ (R240); ROOT is NONE for the empty table (R244). -/
def buildTree (f : SymTable Word) : Arena × NodeRef :=
  mergeAll (presentSymbols f).length (seedLeaves f) 256 ((presentSymbols f).map leafIndex)

/-- BUILD's body (R240); it writes what R241 lists and nothing else. -/
def buildBody (s : State) : State :=
  finish { s with
    node := (buildTree s.freq).1
    root := (buildTree s.freq).2
    treeValid := true
    treeDec := false
    codesValid := false }

/-- BUILD (R240). -/
def execBuild (s : State) : Result :=
  runCommand .build true id (singleStep fun s => .next (buildBody s)) s

/-! ### RDNODE -/

/-- RDNODE (R250). The index NONE is no operand of RDNODE: presented, it is the illegal word of
30_encoding.md R144 and raises ILLEGAL_CMD; it is never latched, so the engine has no step for it. -/
def execRdnode (i : Idx) (s : State) : Result :=
  match refOfBits i with
  | some r =>
    runCommand (.rdnode i) true id
      (singleStep fun s => .next (finish (setResult (nodeWord s.node[r]) (s.node[r]).weight 0 s))) s
  | none =>
    if s.busy then .fault .strayPoint else .next (raiseError .illegalCmd { s with done := false })

end Sys2Proof.Machine
end

