-- ==== Sys2Proof/Machine/Decoder.lean ====
section
/-! DEFINITION. The tree-walking decoder: DECODE (44_decoder.md). -/

namespace Sys2Proof.Machine

/-! ### The switch to streaming and the token loop's walk -/

/-- R338, then the test of R339: a one-leaf tree with symbols to emit goes to the degenerate output, any
other to the token loop. -/
def startStreaming (s : State) : State :=
  let s := endWalk { s with treeValid := true, dstate := .streamingBits }
  match s.root with
  | none => goto .decTok s
  | some r => if (s.node[r]).leaf && decide (s.emitted < s.dcount) then goto .decDegen s else goto .decTok s

/-- The end of the current token's bits: the rest is ignored and the next token is awaited (R340, R341). -/
def endToken (s : State) : State := goto .decTok { s with dbits := 0 }

/-- One walk step from record `c` on bit `b`: '0' to LEFT, '1' to RIGHT (R340). -/
def childOf (a : Arena) (c : Fin 511) (b : Bool) : NodeRef := if b then (a[c]).right else (a[c]).left

/-- The `while DBITS > 0 and EMITTED < N` loop of R340 with `n` bits of DBYTE left, up to its next `push_out`
or its end. A step to NONE cannot occur (R342; log 13). -/
def walkBits (n : Nat) (s : State) : Result :=
  match n with
  | 0 => .next (endToken s)
  | k + 1 =>
    if s.emitted < s.dcount then
      match s.cur with
      | none => .fault .brokenTree
      | some c =>
        match childOf s.node c (s.dbyte.getLsbD k) with
        | none => .fault .brokenTree
        | some d =>
          if (s.node[d]).leaf then .next (goto .decPush (walkTo d { s with dbits := BitVec.ofNat 4 k }))
          else walkBits k (walkTo d { s with dbits := BitVec.ofNat 4 k })
    else .next (endToken s)

/-! ### The count phase (R334) -/

/-- The end of the count phase (R334): the arena is blanked; with N = 0 there is no tree phase (R335). -/
def countDone (n : Word) (s : State) : State :=
  let s := { s with
    dcount := n
    node := blankArena
    root := none
    dbits := 0
    next := 0
    pstack := []
    seen := Vector.replicate 256 false }
  if n = 0 then startStreaming s else goto (.decTree .tag) s

/-- The count phase on one popped token, with `k` bytes already in `n` (R334). -/
def decCountToken (k : Fin 4) (n : Word) (t : Token) (s : State) : State :=
  match t with
  | .eos => raiseError .malformedHeader s
  | .data b =>
    if k = 3 then countDone (n <<< 8 ||| b.setWidth 32) s
    else goto (.decCount (k + 1) (n <<< 8 ||| b.setWidth 32)) s

/-! ### The tree phase (R335) -/

/-- "attach to the parent": record `i` becomes the LEFT of the top of PSTACK if that is free, else its RIGHT,
and a parent with both children is popped (R335). -/
def attach (i : Fin 511) (s : State) : State :=
  match s.pstack with
  | [] => s
  | p :: rest =>
    if (s.node[p]).left = none then s.setNode p { s.node[p] with left := some i }
    else { s.setNode p { s.node[p] with right := some i } with pstack := rest }

/-- What consuming one header bit leads to. -/
inductive HeaderStep where
  /-- The tree is not complete. -/
  | more (pos : TreePos) (s : State)
  /-- PSTACK is empty: the tree is complete. -/
  | complete (s : State)
  /-- MALFORMED_HEADER (R336 c, d). -/
  | malformed (s : State)
  deriving DecidableEq, Repr

/-- A tag bit (R335): the arena-full check, the new record's index, and for an internal node its record. -/
def tagBit (b : Bool) (s : State) : HeaderStep :=
  if h : s.next.val < 511 then
    let i : Fin 511 := ⟨s.next.val, h⟩
    let s := { s with next := s.next + 1 }
    if b then .more (.sym i 0 0) s
    else
      let s := attach i (s.setNode i (innerNode none none 0))
      .more .tag { s with pstack := i :: s.pstack }
  else .malformed s

/-- A leaf's symbol is read (R335): the duplicate check, its record, the attachment, and the exit test. -/
def leafRead (i : Fin 511) (v : Byte) (s : State) : HeaderStep :=
  if symGet s.seen v then .malformed s
  else
    let s := attach i ({ s with seen := symPut s.seen v true }.setNode i (leafNode v 0))
    if s.pstack = [] then .complete { s with root := some 0, dbits := 0 } else .more .tag s

/-- One bit of the header's tree field at position `pos` (R335). -/
def headerBit (b : Bool) (pos : TreePos) (s : State) : HeaderStep :=
  match pos with
  | .tag => tagBit b s
  | .sym i k acc =>
    let v := acc <<< 1 ||| (BitVec.ofBool b).setWidth 8
    if k = 7 then leafRead i v s else .more (.sym i (k + 1) v) s

/-- The tree phase on the `n` bits left of DBYTE (R333, R335), up to the next `pop_in()`, the end of the tree
or an error. -/
def headerBits (n : Nat) (pos : TreePos) (s : State) : State :=
  match n with
  | 0 => goto (.decTree pos) s
  | k + 1 =>
    match headerBit (s.dbyte.getLsbD k) pos { s with dbits := BitVec.ofNat 4 k } with
    | .more pos' s' => headerBits k pos' s'
    | .complete s' => startStreaming s'
    | .malformed s' => raiseError .malformedHeader s'

/-- The tree phase on one popped token (R333): EOS is MALFORMED_HEADER (R336 b). -/
def decTreeToken (pos : TreePos) (t : Token) (s : State) : State :=
  match t with
  | .eos => raiseError .malformedHeader s
  | .data b => headerBits 8 pos { s with dbyte := b, dbits := 8 }

/-! ### Output and the end -/

/-- After a symbol of the degenerate output is pushed (R339). -/
def degenPushed (s : State) : State :=
  let s := { s with emitted := s.emitted + 1 }
  if s.emitted < s.dcount then goto .decDegen s else goto .decTok s

/-- The end of DECODE at EOS (R344): TRUNC and PARTIAL are warnings, and the command ends successfully.
"The partial walk is dropped". -/
def decodeEnd (s : State) : State :=
  finish (endWalk { s with
    trunc := s.trunc || decide (s.emitted < s.dcount)
    partialEnd := s.partialEnd || (decide (s.emitted < s.dcount) && decide (s.cur ≠ s.root))
    dstate := .done })

/-- The token loop on one popped token (R340, R343, R344). -/
def decTokToken (t : Token) (s : State) : Result :=
  match t with
  | .eos => .next (decodeEnd s)
  | .data b =>
    if s.emitted = s.dcount then .next { s with extra := true }
    else walkBits 8 { s with dbyte := b, dbits := 8 }

/-- DECODE's micro-steps (R332 and the phases of R334 to R344). -/
def decodeBody (s : State) : Result :=
  match s.point with
  | .accepted => .next (goto (.decCount 0 0) s)
  | .decCount k n =>
    match popIn s with
    | none => .next s
    | some (t, s') => .next (decCountToken k n t s')
  | .decTree pos =>
    match popIn s with
    | none => .next s
    | some (t, s') => .next (decTreeToken pos t s')
  | .decDegen =>
    match s.root with
    | none => .fault .brokenTree
    | some r =>
      match pushOut (s.node[r]).sym s with
      | none => .next s
      | some s' => .next (degenPushed s')
  | .decTok =>
    match popIn s with
    | none => .next s
    | some (t, s') => decTokToken t s'
  | .decPush =>
    match s.cur with
    | none => .fault .brokenTree
    | some c =>
      match pushOut (s.node[c]).sym s with
      | none => .next s
      | some s' => walkBits s'.dbits.toNat (endWalk { s' with emitted := s'.emitted + 1 })
  | _ => .fault .strayPoint

/-- DECODE's acceptance actions (R332). -/
def decodeAccept (s : State) : State :=
  { s with
    partialEnd := false
    trunc := false
    extra := false
    treeValid := false
    codesValid := false
    treeDec := true
    dstate := .readingTree
    emitted := 0 }

/-- DECODE (R332); it has no precondition (45_host_interface.md R381). -/
def execDecode (s : State) : Result := runCommand .decode true decodeAccept decodeBody s

end Sys2Proof.Machine
end

