-- ==== Sys2Proof/Machine/Frequency.lean ====
section
/-! DEFINITION. The frequency-table commands NOP, CLRFREQ, COUNT, WRFREQ, RDFREQ (40_frequency.md). -/

namespace Sys2Proof.Machine

/-- NOP (R200). -/
def execNop (s : State) : Result :=
  runCommand .nop true id (singleStep fun s => .next (finish s)) s

/-- CLRFREQ's body (R202): NODE, ROOT and CODE keep their contents. -/
def clrfreqBody (s : State) : State :=
  finish { s with
    freq := Vector.replicate 256 0
    total := 0
    nsym := 0
    treeValid := false
    codesValid := false }

/-- CLRFREQ (R202). -/
def execClrfreq (s : State) : Result :=
  runCommand .clrfreq true id (singleStep fun s => .next (clrfreqBody s)) s

/-- COUNT on one popped token (R205): EOS ends the command, a byte at TOTAL = CNT_MAX is consumed and
raises COUNT_OVERFLOW, any other byte is counted. -/
def countToken (t : Token) (s : State) : State :=
  match t with
  | .eos => finish s
  | .data b =>
    if s.total = Config.cntMax then raiseError .countOverflow s
    else
      { s with
        nsym := if symGet s.freq b = 0 then s.nsym + 1 else s.nsym
        freq := symPut s.freq b (symGet s.freq b + 1)
        total := s.total + 1 }

/-- COUNT's micro-steps (R205, R208). -/
def countBody (s : State) : Result :=
  match s.point with
  | .accepted => .next (goto .countPop s)
  | .countPop =>
    match popIn s with
    | none => .next s
    | some (t, s') => .next (countToken t s')
  | _ => .fault .strayPoint

/-- COUNT (R205). -/
def execCount (s : State) : Result :=
  runCommand .count true (fun s => { s with treeValid := false, codesValid := false }) countBody s

/-- WRFREQ's body (R210): `v` is LARG, the sum is exact, and an overflow writes nothing. -/
def wrfreqBody (b : Byte) (s : State) : State :=
  if freqSum (symPut s.freq b s.larg) ≤ Config.cntMax.toNat then
    finish { s with
      freq := symPut s.freq b s.larg
      total := BitVec.ofNat 32 (freqSum (symPut s.freq b s.larg))
      nsym := BitVec.ofNat 9 (freqCount (symPut s.freq b s.larg))
      treeValid := false
      codesValid := false }
  else raiseError .countOverflow s

/-- WRFREQ (R210). -/
def execWrfreq (b : Byte) (s : State) : Result :=
  runCommand (.wrfreq b) true id (singleStep fun s => .next (wrfreqBody b s)) s

/-- RDFREQ (R214). -/
def execRdfreq (b : Byte) (s : State) : Result :=
  runCommand (.rdfreq b) true id (singleStep fun s => .next (finish (setResult (symGet s.freq b) 0 0 s))) s

end Sys2Proof.Machine
end

