-- ==== Sys2Proof/Machine/Dispatch.lean ====
section
/-! DEFINITION. One arm per command: its acceptance when the engine is idle, one micro-step of its body when
the engine runs it (00_scope.md R13; log 7). -/

namespace Sys2Proof.Machine

def exec (i : Instr) (s : State) : Host.Outcome State Fault Refusal :=
  match i with
  | .nop => Sys2Proof.Machine.execNop s
  | .clrfreq => Sys2Proof.Machine.execClrfreq s
  | .count => Sys2Proof.Machine.execCount s
  | .wrfreq b => Sys2Proof.Machine.execWrfreq b s
  | .rdfreq b => Sys2Proof.Machine.execRdfreq b s
  | .build => Sys2Proof.Machine.execBuild s
  | .rdnode k => Sys2Proof.Machine.execRdnode k s
  | .gencode => Sys2Proof.Machine.execGencode s
  | .rdcode b => Sys2Proof.Machine.execRdcode b s
  | .emithdr => Sys2Proof.Machine.execEmithdr s
  | .encode => Sys2Proof.Machine.execEncode s
  | .decode => Sys2Proof.Machine.execDecode s

end Sys2Proof.Machine
end

