-- ==== Sys2Proof/Machine/HostPort.lean ====
section
/-! DEFINITION. The host's side: the register window, reads, writes, command presentation, resets, and the
engine's turn (10_state.md R53 to R66, 45_host_interface.md). -/

namespace Sys2Proof.Machine

/-! ### The register window -/

/-- The 19 registers (10_state.md R53). -/
inductive Reg where
  | id | params | fifodepth | ctrl | status | cmd | arg | res0 | res1 | res2
  | din | dout | fifostat | total | nsym | root | outbytes | emitted | dcount
  deriving DecidableEq, Repr

/-- The register at an offset, none for a reserved word (R53, 20_memory.md R102). -/
def regAt (off : BitVec 12) : Option Reg :=
  match off.toNat with
  | 0x00 => some .id
  | 0x04 => some .params
  | 0x08 => some .fifodepth
  | 0x0C => some .ctrl
  | 0x10 => some .status
  | 0x14 => some .cmd
  | 0x18 => some .arg
  | 0x1C => some .res0
  | 0x20 => some .res1
  | 0x24 => some .res2
  | 0x28 => some .din
  | 0x2C => some .dout
  | 0x30 => some .fifostat
  | 0x34 => some .total
  | 0x38 => some .nsym
  | 0x3C => some .root
  | 0x40 => some .outbytes
  | 0x44 => some .emitted
  | 0x48 => some .dcount
  | _ => none

/-- The offset in the window of a host address, none outside the window (R100, R103). -/
def windowOffset (addr : Nat) : Option (BitVec 12) :=
  if Config.huffBase ≤ addr ∧ addr < Config.huffBase + 4096 then some (BitVec.ofNat 12 (addr - Config.huffBase))
  else none

/-! ### Reads (45_host_interface.md R372, R388) -/

/-- The value a read of a register returns (R372). -/
def regValue (r : Reg) (s : State) : Word :=
  match r with
  | .id => Config.idValue
  | .params => Config.paramsValue
  | .fifodepth => fifodepthWord s
  | .ctrl => ctrlWord s
  | .status => statusWord s
  | .cmd => 0
  | .arg => s.arg
  | .res0 => s.res0
  | .res1 => s.res1
  | .res2 => s.res2
  | .din => 0
  | .dout =>
    match s.outFifo with
    | [] => 0
    | b :: _ => doutWord b
  | .fifostat => fifostatWord s
  | .total => s.total
  | .nsym => s.nsym.setWidth 32
  | .root => (refBits s.root).setWidth 32
  | .outbytes => s.outbytes
  | .emitted => s.emitted
  | .dcount => s.dcount

/-- The effect of a read on HUFF: only DOUT has one, it pops (R372, R388; nothing to pop when empty). -/
def readEffect (r : Reg) (s : State) : State :=
  if r = .dout then { s with outFifo := s.outFifo.tail } else s

/-- A 32-bit read at an offset: a reserved word reads 0 and has no effect (20_memory.md R102). The value goes
to the host's record (log 4). -/
def hostRead (off : BitVec 12) (s : State) : State :=
  match regAt off with
  | none => { s with reads := s.reads ++ [(off, 0)] }
  | some r => { readEffect r s with reads := s.reads ++ [(off, regValue r s)] }

/-! ### Resets (70_reset_and_hazards.md R460, R461) -/

/-- HUFF in the reset state. The depths are hardwired (R460) and the host's own `sched` and `reads` are not
HUFF's (log 14). -/
def resetHuff (s : State) : State :=
  { State.resetWith { inDepth := s.inDepth, outDepth := s.outDepth } with sched := s.sched, reads := s.reads }

/-! ### Writes (45_host_interface.md R373 to R387) -/

/-- A CTRL write (R376, R386): bit 0 is a soft reset and the other bits are then ignored. -/
def ctrlWrite (v : Word) (s : State) : State :=
  if v.getLsbD 0 then resetHuff s
  else
    { s with
      ieDone := v.getLsbD 1
      ieErr := v.getLsbD 2
      inFifo := if v.getLsbD 3 then [] else s.inFifo
      outFifo := if v.getLsbD 4 then [] else s.outFifo }

/-- A DIN write (R387): a full input FIFO drops the token and sets INOVF. -/
def dinWrite (v : Word) (s : State) : State :=
  if s.inFifo.length < s.inDepth.toNat then { s with inFifo := s.inFifo ++ [dinToken v] }
  else { s with inovf := true }

/-- A CMD write (R380): rejected while BUSY or ERR; an illegal word clears DONE and raises ILLEGAL_CMD; a
legal one is presented to its command, whose meaning checks the precondition and accepts it. -/
def cmdWrite (w : Word) (s : State) : Result :=
  if s.busy || s.err then .next { s with cmdrej := true }
  else
    match decodeWord w with
    | .error _ => .next (raiseError .illegalCmd { s with done := false })
    | .ok c => exec c s

/-- The effect of a write to a register (R373). -/
def regWrite (r : Reg) (v : Word) (s : State) : Result :=
  match r with
  | .ctrl => .next (ctrlWrite v s)
  | .status => .next (statusClear v s)
  | .cmd => cmdWrite v s
  | .arg => .next { s with arg := v }
  | .din => .next (dinWrite v s)
  | .outbytes => .next { s with outbytes := 0 }
  | .id | .params | .fifodepth | .res0 | .res1 | .res2 | .dout | .fifostat => .next s
  | .total | .nsym | .root | .emitted | .dcount => .next s

/-- A 32-bit write at an offset: a reserved word ignores it (20_memory.md R102). -/
def hostWrite (off : BitVec 12) (v : Word) (s : State) : Result :=
  match regAt off with
  | none => .next s
  | some r => regWrite r v s

/-- An access of the given width: refused unless it is 32 bits wide at a multiple of 4 (20_memory.md R104). -/
def aligned32 (width : Nat) (off : BitVec 12) (r : Result) : Result :=
  if width ≠ 32 then .refused .accessWidth
  else if off.toNat % 4 ≠ 0 then .refused .accessAlignment
  else r

/-! ### The engine's turn -/

/-- The word of the running command, from its latches (10_state.md R46); RSV of a legal word is 0. -/
def latchedWord (s : State) : Word := commandWord s.lidx s.lop

/-- The engine's turn (00_scope.md R13): the running command's micro-step. An idle engine has no step, and
its turn passes (log 3). -/
def engineTurn (s : State) : Result :=
  if s.busy then
    match decodeWord (latchedWord s) with
    | .error _ => .fault .strayPoint
    | .ok c => exec c s
  else .next s

/-- One event of the schedule. -/
def runEvent (e : Event) (s : State) : Result :=
  match e with
  | .rd width off => aligned32 width off (.next (hostRead off s))
  | .wr width off v => aligned32 width off (hostWrite off v s)
  | .fetch _ => .refused .instructionFetch
  | .engine => engineTurn s
  | .hardReset => .next (resetHuff s)

/-- The CMD register's offset (10_state.md R53). -/
def cmdOffset : BitVec 12 := 0x14

/-- The state in which the next event is the host's 32-bit CMD write of `w`, with the engine ready to accept
it: BUSY = 0 and ERR = 0, which R380 asks of an accepted word (log 17). -/
def presentNext (w : Word) (s : State) : State :=
  { s with
    busy := false
    point := .accepted
    err := false
    errcode := 0
    sched := .wr 32 cmdOffset w :: s.sched }

end Sys2Proof.Machine
end

