-- ==== Sys2Proof/Machine/Step.lean ====
section
/-! DEFINITION. One step: the next event of the schedule, or, when none is left, the engine's turn. -/

namespace Sys2Proof.Machine

/-- One step of the total order (00_scope.md R13; log 1). With nothing scheduled the engine goes on by itself
until it is idle or waits for the host (log 2). -/
def step (s : State) : Host.Outcome State Fault Refusal :=
  match s.sched with
  | [] => engineTurn s
  | e :: rest => runEvent e { s with sched := rest }

/-- The state whose very next step is the host's CMD write of the given table word (log 17). -/
def State.withFetchWord (s : State) (nbits w : Nat) : State :=
  presentNext (BitVec.ofNat 32 (w % 2 ^ nbits)) s

end Sys2Proof.Machine
end

