-- ==== Sys2Proof/Safety.lean ====
section
/-! DEFINITION. The terms claims are stated in: runs that stay safe, and the invariants of HUFF's state. Each
invariant is a promise a numbered rule of the spec makes about every state. -/

namespace Sys2Proof.Machine

/-- The state an outcome goes on with. -/
def nextOf (r : Result) : Option State :=
  match r with
  | .next s => some s
  | .fault _ => none
  | .refused _ => none

/-- The machine goes on. -/
def GoesOn (r : Result) : Prop := ∃ t, r = .next t

/-- The machine does not stop with a fault. -/
def NoFault (r : Result) : Prop := ∀ f, r ≠ .fault f

/-- The engine runs a command that has just been accepted. -/
abbrev AtStart (s : State) : Prop := s.busy = true ∧ s.point = .accepted

/-- The running command is `c`: its word is in the latches (10_state.md R46). -/
abbrev Runs (c : Instr) (s : State) : Prop := s.busy = true ∧ decodeWord (latchedWord s) = .ok c

/-! ### Counts, flags and FIFOs -/

/-- TOTAL is the sum of FREQ and NSYM its number of non-zero entries (10_state.md R33, R34). -/
structure State.CountsInv (s : State) : Prop where
  total : freqSum s.freq = s.total.toNat
  nsym : freqCount s.freq = s.nsym.toNat

/-- DONE and ERR exclude each other (60_exceptions.md R423), ERRCODE names an error exactly when ERR is set
(10_state.md R50), and a running command has set neither flag (R380, R390). -/
structure State.FlagsInv (s : State) : Prop where
  exclusive : ¬(s.done = true ∧ s.err = true)
  code : s.errcode = 0 ↔ s.err = false
  range : s.errcode.toNat ≤ 6
  running : s.busy = true → s.done = false ∧ s.err = false

/-- No FIFO holds more than its depth (10_state.md R44). -/
structure State.FifoInv (s : State) : Prop where
  input : s.inFifo.length ≤ s.inDepth.toNat
  output : s.outFifo.length ≤ s.outDepth.toNat

/-- A code entry as R40 of 10_state.md has it: LEN at most 64, no bit of BITS at or above LEN, and all 0 when
invalid. -/
structure CodeEntry.Canonical (c : CodeEntry) : Prop where
  len : c.len.toNat ≤ Config.codeMax
  bits : c.bits.toNat < 2 ^ c.len.toNat
  blank : c.valid = false → c = CodeEntry.blank

/-- Every entry of CODE is canonical. -/
def State.CodesInv (s : State) : Prop := ∀ b, (symGet s.code b).Canonical

/-- The accumulator's length at each of ENCODE's wait points (43_bit_packer.md R307). -/
structure State.PackerInv (s : State) : Prop where
  codes : s.CodesInv
  start : Runs .encode s → s.point = .accepted → s.acc = []
  pop : s.busy = true → s.point = .encPop → s.acc.length ≤ 7
  push : s.busy = true → s.point = .encPush → 8 ≤ s.acc.length ∧ s.acc.length ≤ 71
  flush : s.busy = true → s.point = .encFlush → 1 ≤ s.acc.length ∧ s.acc.length ≤ 7

/-! ### The engine's program point -/

/-- Which program points are a command's own (10_state.md R52). -/
def ownsPoint (c : Instr) (p : Point) : Bool :=
  match p with
  | .accepted => true
  | .countPop => decide (c = .count)
  | .hdrPush _ _ => decide (c = .emithdr)
  | .encPop | .encPush | .encFlush => decide (c = .encode)
  | .decCount _ _ | .decTree _ | .decDegen | .decTok | .decPush => decide (c = .decode)

/-- A running engine has a command in its latches and stands at one of its points (R46, R52). -/
def State.PointInv (s : State) : Prop :=
  s.busy = true → ∃ c, decodeWord (latchedWord s) = .ok c ∧ ownsPoint c s.point = true

/-! ### The tree -/

/-- ROOT is NONE or heads a complete strict tree (10_state.md R36, R38). -/
def TreeReady (a : Arena) (root : NodeRef) : Prop := ∀ r, root = some r → ∃ t, wholeTree a r = some t

/-- Record `i` heads a complete tree that is no leaf. -/
def InnerAt (a : Arena) (i : Fin 511) : Prop := ∃ l r, wholeTree a i = some (.node l r)

/-- How many records of the header tree are written at a position of the tree phase. -/
def writtenAt (s : State) (pos : TreePos) : Nat :=
  match pos with
  | .tag => s.next.val
  | .sym i _ _ => i.val

/-- One written record of a header tree being parsed (44_decoder.md R335): a leaf, an internal node waiting
for a child (it is on PSTACK, its RIGHT is free), or one with both children. Children are later records. -/
def PartialRecord (s : State) (m : Nat) (j : Fin 511) : Prop :=
  (s.node[j]).used = true ∧
  ((s.node[j]).leaf = true ∧ j ∉ s.pstack ∨
   (s.node[j]).leaf = false ∧ j ∈ s.pstack ∧ (s.node[j]).right = none ∧
     (∀ c, (s.node[j]).left = some c → j < c ∧ c.val < m) ∨
   (s.node[j]).leaf = false ∧ j ∉ s.pstack ∧
     ∃ l r, (s.node[j]).left = some l ∧ (s.node[j]).right = some r ∧ j < l ∧ l.val < m ∧ j < r ∧ r.val < m)

/-- The header tree while it is parsed (R335). -/
structure PartialTree (s : State) (pos : TreePos) : Prop where
  next : ∀ i k v, pos = .sym i k v → s.next.val = i.val + 1
  records : ∀ j : Fin 511, j.val < writtenAt s pos → PartialRecord s (writtenAt s pos) j
  stack : ∀ p ∈ s.pstack, p.val < writtenAt s pos
  nodup : s.pstack.Nodup

/-- A walk can be in progress: DECODE stands in its token loop (44_decoder.md R340). -/
abbrev Walking (s : State) : Prop := s.busy = true ∧ (s.point = .decTok ∨ s.point = .decPush)

/-- What the engine's tree walks rely on (10_state.md R38, R43, 44_decoder.md R337, R342, 45_host_interface.md
R381): a valid tree is complete, no walk outlives DECODE's token loop (so that elsewhere CUR is
ROOT), the commands that need a tree have one, and DECODE's registers fit its phase. -/
structure State.TreeInv (s : State) : Prop where
  valid : s.treeValid = true → TreeReady s.node s.root
  noWalk : ¬Walking s → s.walk = none
  gencode : Runs .gencode s → s.treeValid = true
  emithdr : Runs .emithdr s → s.point = .accepted → s.treeValid = true
  start : Runs .decode s → s.point = .accepted → s.treeValid = false ∧ s.emitted = 0
  count : ∀ k n, s.busy = true → s.point = .decCount k n → s.treeValid = false ∧ s.emitted = 0
  header : ∀ pos, s.busy = true → s.point = .decTree pos →
    s.treeValid = false ∧ s.emitted = 0 ∧ s.dcount ≠ 0 ∧ PartialTree s pos
  degen : s.busy = true → s.point = .decDegen → s.emitted < s.dcount ∧ s.root ≠ none
  token : s.busy = true → s.point = .decTok → s.emitted ≠ s.dcount →
    ∃ c r, s.cur = some c ∧ s.root = some r ∧ InnerAt s.node c ∧ InnerAt s.node r
  push : s.busy = true → s.point = .decPush →
    s.emitted < s.dcount ∧ s.cur ≠ none ∧ ∃ r, s.root = some r ∧ InnerAt s.node r

/-- The invariant under which the engine never faults. -/
structure State.SoundInv (s : State) : Prop where
  point : s.PointInv
  tree : s.TreeInv

/-- No record is a child twice among the first `m` (44_decoder.md R337). -/
def ChildrenOnce (a : Arena) (m : Nat) : Prop :=
  ∀ i j c : Fin 511, i.val < m → j.val < m → (a[i]).leaf = false → (a[j]).leaf = false →
    ((a[i]).left = some c ∨ (a[i]).right = some c) → ((a[j]).left = some c ∨ (a[j]).right = some c) →
    i = j ∧ ¬((a[i]).left = some c ∧ (a[i]).right = some c)

/-- The leaves of a valid tree name distinct symbols; while a header is parsed, the leaves read so far do, and
SEEN holds their symbols (44_decoder.md R335, R337). -/
structure State.LabelsInv (s : State) : Prop where
  gencode : Runs .gencode s → s.treeValid = true
  valid : s.treeValid = true → ∀ r t, s.root = some r → wholeTree s.node r = some t → (leafSymbols t).Nodup
  header : ∀ pos, s.busy = true → s.point = .decTree pos →
    ChildrenOnce s.node (writtenAt s pos) ∧
    (∀ i : Fin 511, i.val < writtenAt s pos → (s.node[i]).leaf = true → symGet s.seen (s.node[i]).sym = true) ∧
    ∀ i j : Fin 511, i.val < writtenAt s pos → j.val < writtenAt s pos → (s.node[i]).leaf = true →
      (s.node[j]).leaf = true → (s.node[i]).sym = (s.node[j]).sym → i = j

/-- The count EMITHDR writes is the tree's: a valid tree from BUILD weighs TOTAL (43_bit_packer.md R296). -/
structure State.HeaderInv (s : State) : Prop where
  counts : s.CountsInv
  count : Runs .count s → s.treeValid = false
  decode : Runs .decode s → s.treeDec = true
  empty : s.treeValid = true → s.treeDec = false → s.root = none → s.total = 0
  weight : s.treeValid = true → s.treeDec = false → ∀ r, s.root = some r → (s.node[r]).weight = s.total

/-- CODES_VALID means CODE was derived from the tree now in NODE (10_state.md R41). -/
structure State.CodesMatchInv (s : State) : Prop where
  gencode : Runs .gencode s → s.treeValid = true
  decode : Runs .decode s → s.codesValid = false
  tree : s.codesValid = true → s.treeValid = true
  empty : s.codesValid = true → s.root = none → s.code = blankCodes
  derived : s.codesValid = true → ∀ r, s.root = some r →
    ∃ t, wholeTree s.node r = some t ∧ s.code = fillCodes (leafPaths t)

end Sys2Proof.Machine
end

