-- ==== Sys2Proof/Certificates/Slice0/Obligations.lean ====
section
/-! DEFINITION. The statements for the provers: what the rules of spec/ say of the commands, the registers and
the whole machine, each as a Prop over the model. Where a statement names a next state, it is the whole state:
every field not named keeps its value. `point` and `sched` are the model's own (log 1, log 8). -/

namespace Sys2Proof.Claims

open Sys2Proof.Machine

/-- The bits of a byte string, most-significant first (20_memory.md R109). -/
def bitsOf (bytes : List Byte) : Bits := bytes.flatMap (fun b => bin 8 b.toNat)

/-- A 9-bit field names the record of a node reference, 0x1FF for NONE (00_scope.md R8). -/
def FieldNames (f : Idx) (r : NodeRef) : Prop :=
  match r with
  | none => f = 0x1FF
  | some i => f.toNat = i.val

/-- The key order of 41_tree_builder.md R234: WEIGHT first, then the index. -/
def KeyLe (a : Arena) (i j : Fin 511) : Prop :=
  (a[i]).weight < (a[j]).weight ∨ ((a[i]).weight = (a[j]).weight ∧ i ≤ j)

/-- The latches and flags of an accepted command other than DECODE (45_host_interface.md R382, R380). -/
def latchedState (c : Instr) (s : State) : State :=
  { s with
    done := false
    busy := true
    point := .accepted
    lop := opcodeOf c
    lidx := indexOf c
    larg := s.arg
    dstate := .idle }

/-- The subtree reached from a tree by a bit string, '0' left and '1' right; none past a leaf. -/
def below (t : Tree) (p : Bits) : Option Tree :=
  match p, t with
  | [], t => some t
  | _ :: _, .leaf _ => none
  | false :: p, .node l _ => below l p
  | true :: p, .node _ r => below r p

/-- The tree phase after the first `j` bits of DBYTE, each read as 44_decoder.md R335 has it (`headerBit`); none
when one of them completed the tree or raised an error. -/
def afterHeaderBits (j : Nat) (pos : TreePos) (s : State) : Option (TreePos × State) :=
  match j with
  | 0 => some (pos, s)
  | j + 1 =>
    match afterHeaderBits j pos s with
    | none => none
    | some (p, u) =>
      match headerBit (u.dbyte.getLsbD (7 - j)) p { u with dbits := BitVec.ofNat 4 (7 - j) } with
      | .more q v => some (q, v)
      | .complete _ | .malformed _ => none

/-- The values 45_host_interface.md R372 gives for every register but DOUT, by offset. -/
def readTable (s : State) : List (BitVec 12 × Word) :=
  [(0x00, 0x48554646), (0x04, 0x00000840),
   (0x08, BitVec.ofNat 32 (s.inDepth.toNat + s.outDepth.toNat * 65536)),
   (0x0C, BitVec.ofNat 32 (s.ieDone.toNat * 2 + s.ieErr.toNat * 4)),
   (0x10, statusWord s), (0x14, 0), (0x18, s.arg), (0x1C, s.res0), (0x20, s.res1), (0x24, s.res2), (0x28, 0),
   (0x30, BitVec.ofNat 32 (s.inFifo.length + s.outFifo.length * 65536)),
   (0x34, s.total), (0x38, BitVec.ofNat 32 s.nsym.toNat),
   (0x3C, match s.root with | none => 0x1FF | some i => BitVec.ofNat 32 i.val),
   (0x40, s.outbytes), (0x44, s.emitted), (0x48, s.dcount)]

/-- The offsets of the registers a write does not change (R373). -/
def readOnlyOffsets : List (BitVec 12) :=
  [0x00, 0x04, 0x08, 0x1C, 0x20, 0x24, 0x2C, 0x30, 0x34, 0x38, 0x3C, 0x44, 0x48]

/-- An offset of a reserved word of the window (20_memory.md R102). -/
def ReservedOffset (off : BitVec 12) : Prop := 0x4C ≤ off.toNat ∧ off.toNat % 4 = 0

end Sys2Proof.Claims

open Sys2Proof Sys2Proof.Machine Sys2Proof.Claims

/-- Decode and encode agree (R141, R142). -/
def Obligations.DecodeOfEncodeIsTheCommand : Prop :=
  ∀ c : Instr, c.WellFormed → decodeWord (encodeWord c) = .ok c

/-- The other direction (R140, R144): no no-op aliases and no dropped bit. -/
def Obligations.EncodeOfDecodeIsTheWord : Prop :=
  ∀ (w : Word) (c : Instr), decodeWord w = .ok c → c.WellFormed ∧ encodeWord c = w

/-- Match and mask per command (R143). -/
def Obligations.CommandsAreTheMatchedWords : Prop :=
  ∀ w : Word,
    (decodeWord w = .ok .nop ↔ w &&& 0xFFFFFFFF = 0x00) ∧
    (decodeWord w = .ok .clrfreq ↔ w &&& 0xFFFFFFFF = 0x01) ∧
    (decodeWord w = .ok .count ↔ w &&& 0xFFFFFFFF = 0x02) ∧
    (∀ b : Byte, decodeWord w = .ok (.wrfreq b) ↔ w &&& 0xFFFF00FF = 0x03 ∧ w.extractLsb' 8 8 = b) ∧
    (∀ b : Byte, decodeWord w = .ok (.rdfreq b) ↔ w &&& 0xFFFF00FF = 0x04 ∧ w.extractLsb' 8 8 = b) ∧
    (decodeWord w = .ok .build ↔ w &&& 0xFFFFFFFF = 0x10) ∧
    (∀ k : Idx, decodeWord w = .ok (.rdnode k) ↔
      w &&& 0xFFFE00FF = 0x11 ∧ w.extractLsb' 8 9 = k ∧ k ≠ 0x1FF) ∧
    (decodeWord w = .ok .gencode ↔ w &&& 0xFFFFFFFF = 0x20) ∧
    (∀ b : Byte, decodeWord w = .ok (.rdcode b) ↔ w &&& 0xFFFF00FF = 0x21 ∧ w.extractLsb' 8 8 = b) ∧
    (decodeWord w = .ok .emithdr ↔ w &&& 0xFFFFFFFF = 0x30) ∧
    (decodeWord w = .ok .encode ↔ w &&& 0xFFFFFFFF = 0x31) ∧
    (decodeWord w = .ok .decode ↔ w &&& 0xFFFFFFFF = 0x40)

/-- Words of spec/95_test_vectors.md. -/
def Obligations.SpecWordsDecodeToTheirCommands : Prop :=
  decodeWord 0x00000000 = .ok .nop ∧ decodeWord 0x00006104 = .ok (.rdfreq 0x61) ∧
    decodeWord 0x00006203 = .ok (.wrfreq 0x62) ∧ decodeWord 0x00000010 = .ok .build ∧
    decodeWord 0x0001FE11 = .ok (.rdnode 510) ∧ decodeWord 0x00010011 = .ok (.rdnode 256) ∧
    decodeWord 0x00006121 = .ok (.rdcode 0x61) ∧ decodeWord 0x00000031 = .ok .encode ∧
    decodeWord 0x00000040 = .ok .decode ∧
    ∀ w ∈ ([0x00000100, 0x00010003, 0x00020003, 0x0001FF11, 0x000000FF] : List Word), ∀ c, decodeWord w ≠ .ok c

/-- Fetching: a command is presented by a CMD write (R380); the schedule is the model's (log 1). -/
def Obligations.CmdWriteStepRunsTheDecodedCommand : Prop :=
  ∀ (s : State) (w : Word) (rest : List Event) (c : Instr),
    s.sched = .wr 32 0x14 w :: rest → s.busy = false → s.err = false → decodeWord w = .ok c →
    step s = exec c { s with sched := rest }

/-- The engine's micro-steps (R13); that the engine goes on when nothing is scheduled is the model's choice (log 2). -/
def Obligations.EngineTurnRunsTheLatchedCommand : Prop :=
  ∀ (s : State) (c : Instr), Runs c s →
    (∀ rest, s.sched = .engine :: rest → step s = exec c { s with sched := rest }) ∧
    (s.sched = [] → step s = exec c s)

/-- R380: a rejected write changes nothing else. -/
def Obligations.CmdWriteWhileBusyOrErrOnlySetsCmdrej : Prop :=
  ∀ (s : State) (w : Word) (rest : List Event),
    s.sched = .wr 32 0x14 w :: rest → s.busy = true ∨ s.err = true →
    step s = .next { s with sched := rest, cmdrej := true }

/-- R411; the illegal words are those `CommandsAreTheMatchedWords` matches to no command. -/
def Obligations.IllegalWordRaisesIllegalCmd : Prop :=
  ∀ (s : State) (w : Word) (rest : List Event),
    s.sched = .wr 32 0x14 w :: rest → s.busy = false → s.err = false → (∀ c, decodeWord w ≠ .ok c) →
    step s = .next { s with sched := rest, done := false, err := true, errcode := 1, busy := false, point := .accepted }

/-- R412, R381. -/
def Obligations.FalsePreconditionRaisesSequence : Prop :=
  ∀ s : State, s.busy = false →
    let stopped : State := { s with done := false, err := true, errcode := 2, busy := false, point := .accepted }
    (s.treeValid = false → exec .gencode s = .next stopped) ∧
    (s.treeValid = false ∨ s.treeDec = true → exec .emithdr s = .next stopped) ∧
    (s.codesValid = false → exec .encode s = .next stopped)

/-- R382 and R383, with DONE cleared by R380. -/
def Obligations.AcceptanceLatchesAndActs : Prop :=
  ∀ s : State, s.busy = false →
    exec .nop s = .next (latchedState .nop s) ∧
    exec .clrfreq s = .next (latchedState .clrfreq s) ∧
    exec .build s = .next (latchedState .build s) ∧
    (∀ b, exec (.wrfreq b) s = .next (latchedState (.wrfreq b) s)) ∧
    (∀ b, exec (.rdfreq b) s = .next (latchedState (.rdfreq b) s)) ∧
    (∀ b, exec (.rdcode b) s = .next (latchedState (.rdcode b) s)) ∧
    (∀ k, k ≠ 0x1FF → exec (.rdnode k) s = .next (latchedState (.rdnode k) s)) ∧
    (s.treeValid = true → exec .gencode s = .next (latchedState .gencode s)) ∧
    (s.treeValid = true → s.treeDec = false → exec .emithdr s = .next (latchedState .emithdr s)) ∧
    exec .count s = .next { latchedState .count s with treeValid := false, codesValid := false } ∧
    (s.codesValid = true → exec .encode s = .next { latchedState .encode s with emitted := 0, acc := [] }) ∧
    exec .decode s = .next { latchedState .decode s with
      partialEnd := false, trunc := false, extra := false, treeValid := false, codesValid := false,
      treeDec := true, dstate := .readingTree, emitted := 0 }

/-- The bodies of R200 and R202. -/
def Obligations.NopAndClrfreqBodiesEndInOneStep : Prop :=
  ∀ s : State, AtStart s →
    exec .nop s = .next { s with done := true, busy := false, point := .accepted } ∧
    ∃ f : SymTable Word, (∀ b, symGet f b = 0) ∧
      exec .clrfreq s = .next { s with
        freq := f, total := 0, nsym := 0, treeValid := false, codesValid := false,
        done := true, busy := false, point := .accepted }

/-- COUNT's body (R205). -/
def Obligations.CountTakesOneToken : Prop :=
  ∀ s : State, s.busy = true →
    (s.point = .accepted → exec .count s = .next { s with point := .countPop }) ∧
    (s.point = .countPop → s.inFifo = [] → exec .count s = .next s) ∧
    (∀ rest, s.point = .countPop → s.inFifo = .eos :: rest →
      exec .count s = .next { s with inFifo := rest, done := true, busy := false, point := .accepted }) ∧
    (∀ b rest, s.point = .countPop → s.inFifo = .data b :: rest → s.total = 0xFFFFFFFF →
      exec .count s = .next { s with inFifo := rest, err := true, errcode := 4, busy := false, point := .accepted }) ∧
    (∀ b rest, s.point = .countPop → s.inFifo = .data b :: rest → s.total ≠ 0xFFFFFFFF →
      ∃ f : SymTable Word, symGet f b = symGet s.freq b + 1 ∧ (∀ x, x ≠ b → symGet f x = symGet s.freq x) ∧
        exec .count s = .next { s with
          inFifo := rest, freq := f, total := s.total + 1,
          nsym := if symGet s.freq b = 0 then s.nsym + 1 else s.nsym })

/-- WRFREQ's body (R210). -/
def Obligations.WrfreqReplacesOneEntry : Prop :=
  ∀ (s : State) (b : Byte), AtStart s →
    let others : Nat := freqSum (symPut s.freq b 0)
    (others + s.larg.toNat ≤ 0xFFFFFFFF →
      ∃ f : SymTable Word, symGet f b = s.larg ∧ (∀ x, x ≠ b → symGet f x = symGet s.freq x) ∧
        exec (.wrfreq b) s = .next { s with
          freq := f, total := BitVec.ofNat 32 (others + s.larg.toNat), nsym := BitVec.ofNat 9 (freqCount f),
          treeValid := false, codesValid := false, done := true, busy := false, point := .accepted }) ∧
    (0xFFFFFFFF < others + s.larg.toNat → exec (.wrfreq b) s = .next { s with err := true, errcode := 4, busy := false, point := .accepted })

/-- R150, R214, R250, R275. -/
def Obligations.ReadBackCommandsWriteTheResultWords : Prop :=
  ∀ s : State, AtStart s →
    (∀ b, exec (.rdfreq b) s = .next { s with
      res0 := symGet s.freq b, res1 := 0, res2 := 0, done := true, busy := false, point := .accepted }) ∧
    (∀ (k : Idx) (i : Fin 511), k.toNat = i.val →
      ∃ r0 : Word, exec (.rdnode k) s = .next { s with
          res0 := r0, res1 := (s.node[i]).weight, res2 := 0, done := true, busy := false, point := .accepted } ∧
        r0.extractLsb' 0 8 = (s.node[i]).sym ∧ FieldNames (r0.extractLsb' 8 9) (s.node[i]).left ∧
        FieldNames (r0.extractLsb' 17 9) (s.node[i]).right ∧ r0.extractLsb' 26 4 = 0 ∧
        r0.getLsbD 30 = (s.node[i]).leaf ∧ r0.getLsbD 31 = (s.node[i]).used) ∧
    (∀ b, ∃ r0 : Word, exec (.rdcode b) s = .next { s with
          res0 := r0, res1 := (symGet s.code b).bits.extractLsb' 0 32,
          res2 := (symGet s.code b).bits.extractLsb' 32 32, done := true, busy := false, point := .accepted } ∧
        r0.extractLsb' 0 7 = (symGet s.code b).len ∧ r0.extractLsb' 7 24 = 0 ∧
        r0.getLsbD 31 = (symGet s.code b).valid)

/-- R241; what NODE and ROOT are is said by the statements that follow. -/
def Obligations.BuildCompletesAndKeepsTheRest : Prop :=
  ∃ build : SymTable Word → Arena × NodeRef, ∀ s : State, AtStart s →
    exec .build s = .next { s with
      node := (build s.freq).1, root := (build s.freq).2, treeValid := true, treeDec := false,
      codesValid := false, done := true, busy := false, point := .accepted }

/-- R234. -/
def Obligations.SelectionTakesTheLeastKey : Prop :=
  ∀ (a : Arena) (set : List (Fin 511)),
    (set = [] → takeLeast a set = none) ∧
    (set ≠ [] → ∃ x, takeLeast a set = some (x, set.erase x) ∧ x ∈ set ∧ ∀ y ∈ set, KeyLe a x y)

/-- R232, R243, R244. -/
def Obligations.BuildAllocatesLeavesAndInnerRecords : Prop :=
  ∀ s t : State, AtStart s → exec .build s = .next t →
    let n := freqCount s.freq
    (∀ (b : Byte) (i : Fin 511), i.val = b.toNat →
      t.node[i] = if symGet s.freq b = 0 then Node.blank
        else { used := true, leaf := true, sym := b, left := none, right := none, weight := symGet s.freq b }) ∧
    (∀ i : Fin 511, 256 ≤ i.val → i.val + 1 < 256 + n →
      (t.node[i]).used = true ∧ (t.node[i]).leaf = false ∧ (t.node[i]).sym = 0 ∧
      ∃ l r, (t.node[i]).left = some l ∧ (t.node[i]).right = some r ∧ l < i ∧ r < i) ∧
    (∀ i : Fin 511, 256 ≤ i.val → 256 + n ≤ i.val + 1 → t.node[i] = Node.blank) ∧
    (n = 0 → t.root = none) ∧
    (n = 1 → ∀ (b : Byte) (i : Fin 511), symGet s.freq b ≠ 0 → i.val = b.toNat → t.root = some i) ∧
    (∀ i : Fin 511, 2 ≤ n → i.val + 2 = 256 + n → t.root = some i)

/-- The greedy merge of R230 and R240, read off the finished arena. -/
def Obligations.BuildMergesTheTwoLeastAvailable : Prop :=
  ∀ s t : State, AtStart s → exec .build s = .next t →
    let childOf : Fin 511 → Fin 511 → Prop := fun i j => (t.node[i]).left = some j ∨ (t.node[i]).right = some j
    let open_ : Fin 511 → Fin 511 → Prop := fun k j =>
      j < k ∧ (t.node[j]).used = true ∧ ∀ i : Fin 511, 256 ≤ i.val → i < k → ¬ childOf i j
    ∀ k x y : Fin 511, 256 ≤ k.val → (t.node[k]).left = some x → (t.node[k]).right = some y →
      (t.node[k]).weight = (t.node[x]).weight + (t.node[y]).weight ∧
      x ≠ y ∧ open_ k x ∧ open_ k y ∧ KeyLe t.node x y ∧
      ∀ j, open_ k j → j ≠ x → KeyLe t.node y j

/-- R242, R236. -/
def Obligations.BuildMakesACompleteTreeOfThePresentSymbols : Prop :=
  ∀ (s : State) (x : Byte), AtStart s → symGet s.freq x ≠ 0 →
    ∃ t r tree, exec .build s = .next t ∧ t.root = some r ∧ wholeTree t.node r = some tree ∧
      (leafSymbols tree).Nodup ∧ ∀ b, b ∈ leafSymbols tree ↔ symGet s.freq b ≠ 0

/-- R237. -/
def Obligations.BuiltWeightsAreSubtreeSums : Prop :=
  ∀ s t : State, AtStart s → s.CountsInv → exec .build s = .next t →
    (∀ i tree, wholeTree t.node i = some tree →
      (t.node[i]).weight.toNat = ((leafSymbols tree).map (fun b => (symGet s.freq b).toNat)).sum ∧
      (t.node[i]).weight.toNat ≤ s.total.toNat) ∧
    ∀ r, t.root = some r → (t.node[r]).weight = s.total

/-- GENCODE's success (R265). That a used leaf outside the tree of ROOT gets no code, in arenas no run reaches, is
the model's (log 13, DEDUCED). -/
def Obligations.GencodeWritesEveryPath : Prop :=
  ∀ (s : State) (r : Fin 511) (tree : Tree), AtStart s → s.root = some r → wholeTree s.node r = some tree →
    (leafSymbols tree).Nodup → (∀ x ∈ leafPaths tree, x.2.length ≤ 64) →
    ∃ codes : SymTable CodeEntry,
      exec .gencode s = .next { s with code := codes, codesValid := true, done := true, busy := false, point := .accepted } ∧
      (∀ x ∈ leafPaths tree, (symGet codes x.1).valid = true ∧ (symGet codes x.1).len.toNat = x.2.length ∧
        (symGet codes x.1).toBits = x.2 ∧ (symGet codes x.1).bits.toNat < 2 ^ x.2.length) ∧
      ∀ b, b ∉ leafSymbols tree → symGet codes b = { valid := false, len := 0, bits := 0 }

/-- R265, R267, R268. -/
def Obligations.GencodeFailsOnADeepLeafAndAcceptsTheEmptyTree : Prop :=
  ∀ s : State, AtStart s →
    (∀ r tree, s.root = some r → wholeTree s.node r = some tree → (∃ x ∈ leafPaths tree, 64 < x.2.length) →
      exec .gencode s = .next { s with codesValid := false, err := true, errcode := 6, busy := false, point := .accepted }) ∧
    (s.root = none → ∃ codes : SymTable CodeEntry,
      (∀ b, symGet codes b = { valid := false, len := 0, bits := 0 }) ∧
      exec .gencode s = .next { s with code := codes, codesValid := true, done := true, busy := false, point := .accepted })

/-- The prefix-free law (R269). -/
def Obligations.GeneratedCodesArePrefixFree : Prop :=
  ∀ s t : State, Runs .gencode s → s.LabelsInv → exec .gencode s = .next t →
    t.codesValid = true →
    ∀ a b : Byte, a ≠ b → (symGet t.code a).valid = true → (symGet t.code b).valid = true →
      ¬ (symGet t.code a).toBits <+: (symGet t.code b).toBits

/-- EMITHDR's header (R295). -/
def Obligations.EmithdrFormsCountAndTreeBits : Prop :=
  ∀ s : State, AtStart s →
    (s.root = none → ∃ b rest, exec .emithdr s = .next { s with point := .hdrPush b rest } ∧
      bitsOf (b :: rest) = bin 32 s.total.toNat) ∧
    (∀ r tree, s.root = some r → wholeTree s.node r = some tree →
      ∃ b rest, exec .emithdr s = .next { s with point := .hdrPush b rest } ∧
        bitsOf (b :: rest) = bin 32 s.total.toNat ++ ser tree ++
          List.replicate ((8 - (ser tree).length % 8) % 8) false)

/-- R300. -/
def Obligations.EmithdrPushesOneByte : Prop :=
  ∀ (s : State) (b : Byte) (rest : List Byte), s.busy = true → s.point = .hdrPush b rest →
    (s.outDepth.toNat ≤ s.outFifo.length → exec .emithdr s = .next s) ∧
    (s.outFifo.length < s.outDepth.toNat →
      (∀ c more, rest = c :: more → exec .emithdr s = .next { s with
        outFifo := s.outFifo ++ [b], outbytes := s.outbytes + 1, point := .hdrPush c more }) ∧
      (rest = [] → exec .emithdr s = .next { s with
        outFifo := s.outFifo ++ [b], outbytes := s.outbytes + 1, done := true, busy := false, point := .accepted }))

/-- R297, R163. -/
def Obligations.HeaderLengthFollowsTheLeafCount : Prop :=
  ∀ s t : State, AtStart s → exec .emithdr s = .next t →
    (s.root = none → ∃ b rest, t.point = .hdrPush b rest ∧ rest.length + 1 = 4) ∧
    ∀ r tree, s.root = some r → wholeTree s.node r = some tree →
      ∃ b rest, t.point = .hdrPush b rest ∧ rest.length + 1 = 4 + (10 * (leafSymbols tree).length - 1 + 7) / 8

/-- ENCODE's token loop (R305); that ACC is emptied when it is discarded is DEDUCED (log 11). -/
def Obligations.EncodeTakesOneToken : Prop :=
  ∀ s : State, s.busy = true →
    (s.point = .accepted → exec .encode s = .next { s with point := .encPop }) ∧
    (s.point = .encPop → s.inFifo = [] → exec .encode s = .next s) ∧
    (∀ rest, s.point = .encPop → s.inFifo = .eos :: rest → s.acc = [] →
      exec .encode s = .next { s with inFifo := rest, done := true, busy := false, point := .accepted }) ∧
    (∀ rest, s.point = .encPop → s.inFifo = .eos :: rest → s.acc ≠ [] →
      exec .encode s = .next { s with inFifo := rest, point := .encFlush }) ∧
    (∀ b rest, s.point = .encPop → s.inFifo = .data b :: rest → (symGet s.code b).valid = false →
      exec .encode s = .next { s with inFifo := rest, acc := [], err := true, errcode := 3, busy := false, point := .accepted }) ∧
    (∀ b rest, s.point = .encPop → s.inFifo = .data b :: rest → (symGet s.code b).valid = true →
      exec .encode s = .next { s with
        inFifo := rest, acc := s.acc ++ (symGet s.code b).toBits, emitted := s.emitted + 1,
        point := if s.acc.length + (symGet s.code b).len.toNat < 8 then .encPop else .encPush })

/-- R305, R308, R310. -/
def Obligations.EncodePushesWholeBytesFirstBitHighest : Prop :=
  ∀ s : State, s.busy = true →
    (s.point = .encPush ∨ s.point = .encFlush → s.outDepth.toNat ≤ s.outFifo.length → exec .encode s = .next s) ∧
    (s.point = .encPush → 8 ≤ s.acc.length → s.outFifo.length < s.outDepth.toNat →
      ∃ b : Byte, bin 8 b.toNat = s.acc.take 8 ∧ exec .encode s = .next { s with
        outFifo := s.outFifo ++ [b], outbytes := s.outbytes + 1, acc := s.acc.drop 8,
        point := if 16 ≤ s.acc.length then .encPush else .encPop }) ∧
    (s.point = .encFlush → 1 ≤ s.acc.length → s.acc.length ≤ 7 → s.outFifo.length < s.outDepth.toNat →
      ∃ b : Byte, bin 8 b.toNat = s.acc ++ List.replicate (8 - s.acc.length) false ∧
        exec .encode s = .next { s with
          outFifo := s.outFifo ++ [b], outbytes := s.outbytes + 1, acc := [], done := true, busy := false, point := .accepted })

/-- R307 with R40. -/
def Obligations.StepKeepsThePackerAccumulatorBounds : Prop :=
  ∀ s t : State, s.PackerInv → step s = .next t → t.PackerInv

/-- R334, R335, R338. `walk := none` is `CUR <- ROOT` (log 19). -/
def Obligations.DecodeCountPhaseReadsTheCount : Prop :=
  ∀ s : State, s.busy = true →
    (s.point = .accepted → exec .decode s = .next { s with point := .decCount 0 0 }) ∧
    ∀ (k : Fin 4) (n : Word), s.point = .decCount k n →
      (s.inFifo = [] → exec .decode s = .next s) ∧
      ∀ (b : Byte) (rest : List Token), s.inFifo = .data b :: rest →
        let m : Word := BitVec.ofNat 32 (n.toNat * 256 + b.toNat)
        (k ≠ 3 → exec .decode s = .next { s with inFifo := rest, point := .decCount (k + 1) m }) ∧
        (k = 3 → m ≠ 0 → exec .decode s = .next { s with
          inFifo := rest, dcount := m, node := Vector.replicate 511 Node.blank, root := none, dbits := 0, next := 0, pstack := [], seen := Vector.replicate 256 false, point := .decTree .tag }) ∧
        (k = 3 → m = 0 → exec .decode s = .next { s with
          inFifo := rest, dcount := m, node := Vector.replicate 511 Node.blank, root := none, dbits := 0, next := 0, pstack := [], seen := Vector.replicate 256 false,
          treeValid := true, dstate := .streamingBits, walk := none, point := .decTok })

/-- R333, R336 (a) to (d), at every bit of a token. -/
def Obligations.HeaderDefectsAreMalformed : Prop :=
  ∀ s : State, s.busy = true →
    (∀ pos, s.point = .decTree pos → s.inFifo = [] → exec .decode s = .next s) ∧
    (∀ rest, s.inFifo = .eos :: rest → ((∃ k n, s.point = .decCount k n) ∨ ∃ pos, s.point = .decTree pos) →
      exec .decode s = .next { s with inFifo := rest, err := true, errcode := 5, busy := false, point := .accepted }) ∧
    ∀ b rest pos, s.inFifo = .data b :: rest → s.point = .decTree pos →
      let popped : State := { s with inFifo := rest, dbyte := b, dbits := 8 }
      let bit : Nat → Bool := fun j => b.getLsbD (7 - j)
      let full : TreePos → State → Prop := fun p u => p = .tag ∧ u.next.val = 511
      let repeated : Nat → TreePos → State → Prop := fun j p u => ∃ i acc, p = .sym i 7 acc ∧
        symGet u.seen (BitVec.ofNat 8 (acc.toNat * 2 + (bit j).toNat)) = true
      (∀ j p u, j < 8 → afterHeaderBits j pos popped = some (p, u) →
        u = { popped with
          node := u.node, pstack := u.pstack, next := u.next, seen := u.seen, dbits := BitVec.ofNat 4 (8 - j) } ∧
        (full p u ∨ repeated j p u → exec .decode s = .next { u with
          dbits := BitVec.ofNat 4 (7 - j), err := true, errcode := 5, busy := false, point := .accepted })) ∧
      ∀ t, exec .decode s = .next t → s.err = false → t.err = true →
        ∃ j p u, j < 8 ∧ afterHeaderBits j pos popped = some (p, u) ∧ (full p u ∨ repeated j p u)

/-- R338: a header made from a tree decodes to a tree with the same shape and symbols. -/
def Obligations.DecodeRebuildsTheSerialisedTree : Prop :=
  ∀ (tree : Tree) (s : State) (rest : List Token),
    Runs .decode s → s.sched = [] → s.point = .decTree .tag → s.next = 0 → s.pstack = [] →
    (∀ b, symGet s.seen b = false) → (leafSymbols tree).Nodup →
    s.inFifo = (toBytes (padByte (ser tree))).map .data ++ rest →
    ∃ t : State, Host.Core.run Sys2Proof.core (toBytes (padByte (ser tree))).length s = .next t ∧
      t.inFifo = rest ∧ t.treeValid = true ∧ t.dstate = .streamingBits ∧ t.root = some 0 ∧ t.cur = some 0 ∧
      wholeTree t.node 0 = some tree ∧ t.freq = s.freq ∧ t.total = s.total ∧ t.nsym = s.nsym ∧ t.code = s.code ∧
      t.dcount = s.dcount ∧ t.outFifo = s.outFifo

/-- R339. -/
def Obligations.DegenerateOutputPushesTheSymbol : Prop :=
  ∀ (s : State) (r : Fin 511), s.busy = true → s.point = .decDegen → s.root = some r →
    (s.outDepth.toNat ≤ s.outFifo.length → exec .decode s = .next s) ∧
    (s.outFifo.length < s.outDepth.toNat → exec .decode s = .next { s with
      outFifo := s.outFifo ++ [(s.node[r]).sym], outbytes := s.outbytes + 1, emitted := s.emitted + 1,
      point := if s.emitted + 1 < s.dcount then .decDegen else .decTok })

/-- The `Decoded` step of R342. -/
def Obligations.DataTokenWalksToTheLeaf : Prop :=
  ∀ (s : State) (b : Byte) (rest : List Token) (c : Fin 511) (tree : Tree) (x : Byte) (p : Bits),
    s.busy = true → s.point = .decTok → s.inFifo = .data b :: rest → s.emitted < s.dcount →
    s.cur = some c → wholeTree s.node c = some tree → (x, p) ∈ leafPaths tree → p ≠ [] → p <+: bin 8 b.toNat →
    ∃ d : Fin 511, exec .decode s = .next { s with
        inFifo := rest, dbyte := b, dbits := BitVec.ofNat 4 (8 - p.length), walk := some d, point := .decPush } ∧
      (s.node[d]).leaf = true ∧ (s.node[d]).sym = x

/-- The `NeedMoreBits` step of R342. -/
def Obligations.DataTokenInsideAWalkWaitsForMore : Prop :=
  ∀ (s : State) (b : Byte) (rest : List Token) (c : Fin 511) (tree l r : Tree),
    s.busy = true → s.point = .decTok → s.inFifo = .data b :: rest → s.emitted < s.dcount →
    s.cur = some c → wholeTree s.node c = some tree → below tree (bin 8 b.toNat) = some (.node l r) →
    ∃ d : Fin 511, exec .decode s = .next { s with
        inFifo := rest, dbyte := b, dbits := 0, walk := some d, point := .decTok } ∧
      wholeTree s.node d = some (.node l r)

/-- R340 to R342: the second and later symbols of one data byte. -/
def Obligations.DecodePushEmitsOneSymbol : Prop :=
  ∀ (s : State) (c : Fin 511), s.busy = true → s.point = .decPush → s.cur = some c → s.emitted < s.dcount →
    (s.outDepth.toNat ≤ s.outFifo.length → exec .decode s = .next s) ∧
    (s.outFifo.length < s.outDepth.toNat → s.dbits = 0 ∨ s.emitted + 1 = s.dcount →
      exec .decode s = .next { s with
        outFifo := s.outFifo ++ [(s.node[c]).sym], outbytes := s.outbytes + 1, emitted := s.emitted + 1,
        walk := none, dbits := 0, point := .decTok }) ∧
    (∀ (r : Fin 511) (tl tr : Tree), s.outFifo.length < s.outDepth.toNat → s.dbits ≠ 0 → s.emitted + 1 ≠ s.dcount →
      s.root = some r → wholeTree s.node r = some (.node tl tr) →
      let left : Bits := bin s.dbits.toNat s.dbyte.toNat
      (∀ x p, (x, p) ∈ leafPaths (.node tl tr) → p <+: left →
        ∃ d : Fin 511, exec .decode s = .next { s with
            outFifo := s.outFifo ++ [(s.node[c]).sym], outbytes := s.outbytes + 1, emitted := s.emitted + 1,
            walk := some d, dbits := BitVec.ofNat 4 (s.dbits.toNat - p.length), point := .decPush } ∧
          (s.node[d]).leaf = true ∧ (s.node[d]).sym = x) ∧
      (∀ l r', below (.node tl tr) left = some (.node l r') →
        ∃ d : Fin 511, exec .decode s = .next { s with
            outFifo := s.outFifo ++ [(s.node[c]).sym], outbytes := s.outbytes + 1, emitted := s.emitted + 1,
            walk := some d, dbits := 0, point := .decTok } ∧
          wholeTree s.node d = some (.node l r')) ∧
      ((∃ x p, (x, p) ∈ leafPaths (.node tl tr) ∧ p <+: left) ∨ ∃ l r', below (.node tl tr) left = some (.node l r')))

/-- R343. -/
def Obligations.DataAfterTheLastSymbolSetsExtra : Prop :=
  ∀ s : State, s.busy = true → s.point = .decTok →
    (s.inFifo = [] → exec .decode s = .next s) ∧
    ∀ b rest, s.inFifo = .data b :: rest → s.emitted = s.dcount →
      exec .decode s = .next { s with inFifo := rest, extra := true }

/-- R344: "the partial walk is dropped" is `walk := none` (log 19). -/
def Obligations.EosEndsTheDecode : Prop :=
  ∀ (s : State) (rest : List Token), s.busy = true → s.point = .decTok → s.inFifo = .eos :: rest →
    (s.emitted < s.dcount → s.cur ≠ s.root → exec .decode s = .next { s with
      inFifo := rest, trunc := true, partialEnd := true, walk := none, dstate := .done, done := true, busy := false, point := .accepted }) ∧
    (s.emitted < s.dcount → s.cur = s.root → exec .decode s = .next { s with
      inFifo := rest, trunc := true, walk := none, dstate := .done, done := true, busy := false, point := .accepted }) ∧
    (¬ s.emitted < s.dcount → exec .decode s = .next { s with
      inFifo := rest, walk := none, dstate := .done, done := true, busy := false, point := .accepted })

/-- R372, R388, R102; that the value goes to `reads` is the model's (log 4). -/
def Obligations.ReadsReturnTheRegisterTable : Prop :=
  ∀ (s : State) (off : BitVec 12) (rest : List Event), s.FifoInv → s.sched = .rd 32 off :: rest →
    (∀ v, (off, v) ∈ readTable s → step s = .next { s with sched := rest, reads := s.reads ++ [(off, v)] }) ∧
    (ReservedOffset off → step s = .next { s with sched := rest, reads := s.reads ++ [(off, 0)] }) ∧
    (off = 0x2C → s.outFifo = [] → step s = .next { s with sched := rest, reads := s.reads ++ [(off, 0)] }) ∧
    (∀ b more, off = 0x2C → s.outFifo = b :: more → step s = .next { s with
      sched := rest, outFifo := more, reads := s.reads ++ [(off, BitVec.ofNat 32 (0x100 + b.toNat))] })

/-- R58, R51, R430. -/
def Obligations.StatusWordHasTheFieldsOfTheTable : Prop :=
  ∀ s : State,
    let w := statusWord s
    w.getLsbD 0 = s.busy ∧ w.getLsbD 1 = s.done ∧ w.getLsbD 2 = s.err ∧
    (w.getLsbD 3 = true ↔ (s.done = true ∧ s.ieDone = true) ∨ (s.err = true ∧ s.ieErr = true)) ∧
    w.extractLsb' 4 4 = s.errcode ∧ w.getLsbD 8 = s.treeValid ∧ w.getLsbD 9 = s.codesValid ∧
    (w.getLsbD 10 = true ↔ s.treeValid = true ∧ ∃ r, s.root = some r ∧ (s.node[r]).leaf = true) ∧
    w.getLsbD 11 = s.partialEnd ∧ w.getLsbD 12 = s.trunc ∧ w.getLsbD 13 = s.extra ∧
    w.getLsbD 14 = s.inovf ∧ w.getLsbD 15 = s.cmdrej ∧
    (w.extractLsb' 16 2 = 0 ↔ s.dstate = .idle) ∧ (w.extractLsb' 16 2 = 1 ↔ s.dstate = .readingTree) ∧
    (w.extractLsb' 16 2 = 2 ↔ s.dstate = .streamingBits) ∧ (w.extractLsb' 16 2 = 3 ↔ s.dstate = .done) ∧
    w.getLsbD 18 = s.treeDec ∧ w.extractLsb' 19 13 = 0

/-- R373. -/
def Obligations.PlainWritesHaveTheirTableEffect : Prop :=
  ∀ (s : State) (off : BitVec 12) (v : Word) (rest : List Event), s.sched = .wr 32 off v :: rest →
    (off ∈ readOnlyOffsets ∨ ReservedOffset off → step s = .next { s with sched := rest }) ∧
    (off = 0x18 → step s = .next { s with sched := rest, arg := v }) ∧
    (off = 0x40 → step s = .next { s with sched := rest, outbytes := 0 })

/-- R376, R386; that `sched` and `reads` survive a reset is the model's (log 14). -/
def Obligations.CtrlWriteResetsOrSetsAndFlushes : Prop :=
  ∀ (s : State) (v : Word) (rest : List Event), s.sched = .wr 32 0x0C v :: rest →
    (v.getLsbD 0 = true → step s = .next { State.resetWith ⟨s.inDepth, s.outDepth⟩ with
      sched := rest, reads := s.reads }) ∧
    (v.getLsbD 0 = false → step s = .next { s with
      sched := rest, ieDone := v.getLsbD 1, ieErr := v.getLsbD 2,
      inFifo := if v.getLsbD 3 then [] else s.inFifo, outFifo := if v.getLsbD 4 then [] else s.outFifo })

/-- R377, the return from an error among it (R424). -/
def Obligations.StatusWriteClearsTheWrittenOnes : Prop :=
  ∀ (s : State) (v : Word) (rest : List Event), s.sched = .wr 32 0x10 v :: rest →
    step s = .next { s with
      sched := rest
      done := if v.getLsbD 1 then false else s.done
      err := if v.getLsbD 2 then false else s.err
      errcode := if v.getLsbD 2 then 0 else s.errcode
      partialEnd := if v.getLsbD 11 then false else s.partialEnd
      trunc := if v.getLsbD 12 then false else s.trunc
      extra := if v.getLsbD 13 then false else s.extra
      inovf := if v.getLsbD 14 then false else s.inovf
      cmdrej := if v.getLsbD 15 then false else s.cmdrej }

/-- R387, R146. -/
def Obligations.DinWriteAppendsOrDrops : Prop :=
  ∀ (s : State) (v : Word) (rest : List Event), s.sched = .wr 32 0x28 v :: rest →
    (s.inFifo.length = s.inDepth.toNat → step s = .next { s with sched := rest, inovf := true }) ∧
    (s.inFifo.length < s.inDepth.toNat → v.getLsbD 8 = true →
      step s = .next { s with sched := rest, inFifo := s.inFifo ++ [.eos] }) ∧
    (s.inFifo.length < s.inDepth.toNat → v.getLsbD 8 = false →
      step s = .next { s with sched := rest, inFifo := s.inFifo ++ [.data (v.extractLsb' 0 8)] })

/-- R104, R106; that the run stops there is the model's form of a refusal (log 9). -/
def Obligations.OutsideAccessesAreRefused : Prop :=
  ∀ (s : State) (rest : List Event),
    (∀ width off v, s.sched = .rd width off :: rest ∨ s.sched = .wr width off v :: rest →
      (width ≠ 32 → step s = .refused .accessWidth) ∧
      (width = 32 → off.toNat % 4 ≠ 0 → step s = .refused .accessAlignment)) ∧
    (∀ off, s.sched = .fetch off :: rest → step s = .refused .instructionFetch)

/-- R460; the depths of `State.reset` are the model's choice (log 5), so this holds for every depth. That `sched`
and `reads` survive a reset is the model's (log 14); the soft reset is `CtrlWriteResetsOrSetsAndFlushes`. -/
def Obligations.ResetGivesEveryElementItsValue : Prop :=
  (∀ d : Config.Depths,
      let s := State.resetWith d
      (∀ b, symGet s.freq b = 0 ∧ symGet s.code b = { valid := false, len := 0, bits := 0 } ∧
        symGet s.seen b = false) ∧
      (∀ i : Fin 511, s.node[i] =
        { used := false, leaf := false, sym := 0, left := none, right := none, weight := 0 }) ∧
      s.total = 0 ∧ s.nsym = 0 ∧ s.dcount = 0 ∧ s.root = none ∧ s.treeValid = false ∧ s.treeDec = false ∧
      s.codesValid = false ∧ s.acc = [] ∧ s.dstate = .idle ∧ s.dbyte = 0 ∧ s.dbits = 0 ∧ s.next = 0 ∧
      s.walk = none ∧ s.cur = none ∧ s.pstack = [] ∧ s.inFifo = [] ∧ s.outFifo = [] ∧ s.busy = false ∧ s.lop = 0 ∧ s.lidx = 0 ∧
      s.larg = 0 ∧ s.outbytes = 0 ∧ s.emitted = 0 ∧ s.done = false ∧ s.err = false ∧ s.partialEnd = false ∧
      s.trunc = false ∧ s.extra = false ∧ s.inovf = false ∧ s.cmdrej = false ∧ s.errcode = 0 ∧
      s.ieDone = false ∧ s.ieErr = false ∧ s.arg = 0 ∧ s.res0 = 0 ∧ s.res1 = 0 ∧ s.res2 = 0 ∧
      statusWord s = 0 ∧ s.irq = false ∧ (0x3C, 0x1FF) ∈ readTable s ∧ (0x30, 0) ∈ readTable s) ∧
    ∀ (s : State) (rest : List Event), s.sched = .hardReset :: rest →
      step s = .next { State.resetWith ⟨s.inDepth, s.outDepth⟩ with sched := rest, reads := s.reads }

/-- R33, R34: always. -/
def Obligations.StepKeepsTotalTheSumOfFreq : Prop :=
  ∀ s t : State, s.CountsInv → step s = .next t → t.CountsInv

/-- R423, R50. -/
def Obligations.StepKeepsDoneAndErrApart : Prop :=
  ∀ s t : State, s.FlagsInv → step s = .next t → t.FlagsInv

/-- R44, R56. -/
def Obligations.StepKeepsFifosWithinTheirDepths : Prop :=
  ∀ s t : State, s.FifoInv → step s = .next t →
    t.FifoInv ∧ t.inDepth = s.inDepth ∧ t.outDepth = s.outDepth

/-- R36, R38, R43, R52, R337. CUR is read from the walk and ROOT (log 19). -/
def Obligations.StepKeepsTheEngineSound : Prop :=
  ∀ s t : State, s.SoundInv → step s = .next t → t.SoundInv ∧ (¬Walking t → t.cur = t.root)

/-- R336 (d), R337. -/
def Obligations.StepKeepsLeafSymbolsDistinct : Prop :=
  ∀ s t : State, s.SoundInv → s.LabelsInv → step s = .next t → t.LabelsInv

/-- HUFF's behaviour on every input is fixed (R349): the model's faults are unreachable (log 12, log 13). -/
def Obligations.SoundEngineNeverFaults : Prop :=
  ∀ s : State, s.SoundInv →
    NoFault (step s) ∧ (s.sched = [] → GoesOn (step s)) ∧ ∀ rest, s.sched = .engine :: rest → GoesOn (step s)

/-- R296. -/
def Obligations.StepKeepsTheHeaderCountConsistent : Prop :=
  ∀ s t : State, s.HeaderInv → step s = .next t → t.HeaderInv

/-- R41. -/
def Obligations.StepKeepsCodesMatchedToTheTree : Prop :=
  ∀ s t : State, s.CodesMatchInv → step s = .next t → t.CodesMatchInv

/-- The invariants' base case. -/
def Obligations.ResetMeetsEveryInvariant : Prop :=
  ∀ d : Config.Depths, d.Legal →
    (State.resetWith d).CountsInv ∧ (State.resetWith d).FlagsInv ∧ (State.resetWith d).FifoInv ∧
    (State.resetWith d).PackerInv ∧ (State.resetWith d).SoundInv ∧ (State.resetWith d).LabelsInv ∧
    (State.resetWith d).HeaderInv ∧ (State.resetWith d).CodesMatchInv

/-- The writers each rule of 10_state.md names. -/
def Obligations.OnlyTheirCommandsWriteTheTables : Prop :=
  ∀ (c : Instr) (s t : State), exec c s = .next t →
    (t.freq ≠ s.freq ∨ t.total ≠ s.total ∨ t.nsym ≠ s.nsym → c = .clrfreq ∨ c = .count ∨ ∃ b, c = .wrfreq b) ∧
    (t.node ≠ s.node ∨ t.root ≠ s.root → c = .build ∨ c = .decode) ∧
    (t.code ≠ s.code → c = .gencode) ∧
    (t.res0 ≠ s.res0 ∨ t.res1 ≠ s.res1 ∨ t.res2 ≠ s.res2 →
      (∃ b, c = .rdfreq b) ∨ (∃ k, c = .rdnode k) ∨ ∃ b, c = .rdcode b) ∧
    (t.dcount ≠ s.dcount → c = .decode) ∧
    (t.outFifo ≠ s.outFifo ∨ t.outbytes ≠ s.outbytes → c = .emithdr ∨ c = .encode ∨ c = .decode) ∧
    (t.inFifo ≠ s.inFifo → c = .count ∨ c = .encode ∨ c = .decode) ∧
    t.arg = s.arg ∧ t.ieDone = s.ieDone ∧ t.ieErr = s.ieErr ∧ t.inovf = s.inovf ∧ t.cmdrej = s.cmdrej ∧
    t.inDepth = s.inDepth ∧ t.outDepth = s.outDepth ∧ t.sched = s.sched ∧ t.reads = s.reads

/-- R31, R107, R396. -/
def Obligations.HostAccessesReachTheEngineOnlyByCmdAndReset : Prop :=
  ∀ (s t : State) (e : Event) (rest : List Event), s.sched = e :: rest → step s = .next t →
    ((∃ width off, e = .rd width off) ∨
      ∃ width off v, e = .wr width off v ∧ off ≠ 0x14 ∧ ¬(off = 0x0C ∧ v.getLsbD 0 = true)) →
    t = { s with
      arg := t.arg, ieDone := t.ieDone, ieErr := t.ieErr, outbytes := t.outbytes, done := t.done, err := t.err,
      errcode := t.errcode, partialEnd := t.partialEnd, trunc := t.trunc, extra := t.extra, inovf := t.inovf,
      cmdrej := t.cmdrej, inFifo := t.inFifo, outFifo := t.outFifo, sched := rest, reads := t.reads } ∧
    (t.done = true → s.done = true) ∧ (t.err = true → s.err = true) ∧ (t.partialEnd = true → s.partialEnd = true) ∧
    (t.trunc = true → s.trunc = true) ∧ (t.extra = true → s.extra = true) ∧ (t.cmdrej = true → s.cmdrej = true)

/-- R13. -/
def Obligations.MicroStepDoesAtMostOneFifoOperation : Prop :=
  ∀ (c : Instr) (s t : State), s.busy = true → exec c s = .next t →
    (t.inFifo = s.inFifo ∧ t.outFifo = s.outFifo ∧ t.outbytes = s.outbytes) ∨
    (∃ k, s.inFifo = k :: t.inFifo ∧ t.outFifo = s.outFifo ∧ t.outbytes = s.outbytes) ∨
    (∃ b, s.outFifo.length < s.outDepth.toNat ∧ t.outFifo = s.outFifo ++ [b] ∧ t.outbytes = s.outbytes + 1 ∧
      t.inFifo = s.inFifo)

/-- R14, R384. -/
def Obligations.SingleStepCommandsEndInOneMicroStep : Prop :=
  ∀ (c : Instr) (s : State), s.SoundInv → Runs c s →
    c ≠ .count → c ≠ .emithdr → c ≠ .encode → c ≠ .decode →
    ∃ t, exec c s = .next t ∧ t.busy = false ∧ (t.done = true ∨ t.err = true) ∧
      t.inFifo = s.inFifo ∧ t.outFifo = s.outFifo

/-- R430, R418. -/
def Obligations.IrqFollowsCompletionAndErrorOnly : Prop :=
  ∀ (c : Instr) (s t : State), s.busy = true → exec c s = .next t → s.irq = false → t.irq = true →
    t.busy = false ∧ ((s.done = false ∧ t.done = true ∧ s.ieDone = true) ∨
      (s.err = false ∧ t.err = true ∧ s.ieErr = true))
end

