-- ==== Sys2Proof/Laws/Bits.lean ====
section
/-! SUPPORT. Bit strings and trees: lengths, conversions and the reading of a tree from the arena. -/

namespace Sys2Proof.Machine

/-! ### `bin`, `val`, `byteOf` -/

@[simp] theorem bin_length (n v : Nat) : (bin n v).length = n := by
  induction n with
  | zero => rfl
  | succ n ih => simp [bin, ih]

theorem val_append_one (p : Bits) (b : Bool) : val (p ++ [b]) = 2 * val p + b.toNat := by
  simp [val]

theorem val_lt (p : Bits) : val p < 2 ^ p.length := by
  induction p using List.reverseRecOn with
  | nil => simp [val]
  | append_singleton p b ih =>
    rw [val_append_one, List.length_append, List.length_singleton, Nat.pow_succ]
    have : b.toNat ≤ 1 := Bool.toNat_le b
    omega

/-- Appending the low bit: `bin` read from its other end. -/
theorem bin_succ (n v : Nat) : bin (n + 1) v = bin n (v / 2) ++ [v.testBit 0] := by
  induction n with
  | zero => rfl
  | succ n ih =>
    have hb : bin (n + 2) v = v.testBit (n + 1) :: bin (n + 1) v := rfl
    have hc : bin (n + 1) (v / 2) = (v / 2).testBit n :: bin n (v / 2) := rfl
    rw [hb, ih, hc, Nat.testBit_succ]
    rfl

/-- `bin` undoes `val`. -/
theorem bin_val (p : Bits) : bin p.length (val p) = p := by
  induction p using List.reverseRecOn with
  | nil => rfl
  | append_singleton p b ih =>
    rw [List.length_append, List.length_singleton, bin_succ, val_append_one]
    have h1 : (2 * val p + b.toNat) / 2 = val p := by
      have : b.toNat ≤ 1 := Bool.toNat_le b
      omega
    have h2 : (2 * val p + b.toNat).testBit 0 = b := by
      cases b <;> simp [Nat.testBit_zero]
    rw [h1, h2, ih]

/-- The byte of 8 bits has those bits, most-significant first (20_memory.md R109). -/
theorem bin_byteOf {p : Bits} (h : p.length = 8) : bin 8 (byteOf p).toNat = p := by
  have hv := val_lt p
  rw [h] at hv
  have : (byteOf p).toNat = val p := by
    simp only [byteOf, BitVec.toNat_ofNat]
    exact Nat.mod_eq_of_lt hv
  rw [this, ← h, bin_val]

theorem padByte_length (p : Bits) : (padByte p).length % 8 = 0 := by
  simp [padByte]; omega

/-! ### Trees -/

@[simp] theorem leafPaths_symbols (t : Tree) : (leafPaths t).map Prod.fst = leafSymbols t := by
  induction t with
  | leaf x => rfl
  | node l r ihl ihr => simp [leafPaths, leafSymbols, ← ihl, ← ihr, Function.comp_def]

theorem leafSymbols_pos (t : Tree) : 1 ≤ (leafSymbols t).length := by
  induction t with
  | leaf x => simp [leafSymbols]
  | node l r ihl ihr => simp [leafSymbols]; omega

/-- `|ser(root)| = 10 L - 1` (30_encoding.md R163), without subtraction. -/
theorem ser_length (t : Tree) : (ser t).length + 1 = 10 * (leafSymbols t).length := by
  induction t with
  | leaf x => simp [ser, leafSymbols]
  | node l r ihl ihr => simp only [ser, leafSymbols, List.length_cons, List.length_append]; omega

theorem treeAt_leaf {k : Nat} {a : Arena} {i : Fin 511} (hu : (a[i]).used = true) (hl : (a[i]).leaf = true) :
    treeAt (k + 1) a i = some (.leaf (a[i]).sym) := by
  rw [treeAt, if_pos hu, if_pos hl]

theorem treeAt_node {k : Nat} {a : Arena} {i l r : Fin 511} {tl tr : Tree} (hu : (a[i]).used = true)
    (hn : (a[i]).leaf = false) (hl : (a[i]).left = some l) (hr : (a[i]).right = some r)
    (htl : treeAt k a l = some tl) (htr : treeAt k a r = some tr) :
    treeAt (k + 1) a i = some (.node tl tr) := by
  have hn' : ¬ (a[i]).leaf = true := by rw [hn]; exact Bool.false_ne_true
  rw [treeAt, if_pos hu, if_neg hn', hl, hr]
  simp only [htl, htr]

/-- Everything `treeAt` can answer. -/
theorem treeAt_cases {k : Nat} {a : Arena} {i : Fin 511} {t : Tree} (h : treeAt (k + 1) a i = some t) :
    (a[i]).used = true ∧
    ((a[i]).leaf = true ∧ t = .leaf (a[i]).sym ∨
     (a[i]).leaf = false ∧ ∃ l r tl tr, (a[i]).left = some l ∧ (a[i]).right = some r ∧
       treeAt k a l = some tl ∧ treeAt k a r = some tr ∧ t = .node tl tr) := by
  rw [treeAt] at h
  by_cases hu : (a[i]).used = true
  · rw [if_pos hu] at h
    refine ⟨hu, ?_⟩
    by_cases hl : (a[i]).leaf = true
    · rw [if_pos hl] at h
      exact .inl ⟨hl, (Option.some.inj h).symm⟩
    · rw [if_neg hl] at h
      refine .inr ⟨Bool.eq_false_iff.mpr hl, ?_⟩
      split at h
      · next l r el er =>
        split at h
        · next tl tr e1 e2 => exact ⟨l, r, tl, tr, el, er, e1, e2, (Option.some.inj h).symm⟩
        · cases h
      · cases h
  · rw [if_neg hu] at h
    cases h

/-- More fuel reads the same tree. -/
theorem treeAt_mono {k m : Nat} {a : Arena} {i : Fin 511} {t : Tree} (hkm : k ≤ m) (h : treeAt k a i = some t) :
    treeAt m a i = some t := by
  induction k generalizing m i t with
  | zero => simp [treeAt] at h
  | succ k ih =>
    obtain ⟨m, rfl⟩ : ∃ j, m = j + 1 := ⟨m - 1, by omega⟩
    obtain ⟨hu, ⟨hl, rfl⟩ | ⟨hl, l, r, tl, tr, el, er, e1, e2, rfl⟩⟩ := treeAt_cases h
    · exact treeAt_leaf hu hl
    · exact treeAt_node hu hl el er (ih (by omega) e1) (ih (by omega) e2)

end Sys2Proof.Machine
end

