-- ==== Sys2Proof/Laws/State.lean ====
section
/-! SUPPORT. What each shared operation does to each field of State: one lemma per field, true by
unfolding the operation once. -/

namespace Sys2Proof.Machine

variable (s : State)

/-! ### `finish` -/

@[simp] theorem finish_freq : (finish s).freq = s.freq := rfl
@[simp] theorem finish_node : (finish s).node = s.node := rfl
@[simp] theorem finish_code : (finish s).code = s.code := rfl
@[simp] theorem finish_total : (finish s).total = s.total := rfl
@[simp] theorem finish_nsym : (finish s).nsym = s.nsym := rfl
@[simp] theorem finish_dcount : (finish s).dcount = s.dcount := rfl
@[simp] theorem finish_root : (finish s).root = s.root := rfl
@[simp] theorem finish_treeValid : (finish s).treeValid = s.treeValid := rfl
@[simp] theorem finish_treeDec : (finish s).treeDec = s.treeDec := rfl
@[simp] theorem finish_codesValid : (finish s).codesValid = s.codesValid := rfl
@[simp] theorem finish_acc : (finish s).acc = s.acc := rfl
@[simp] theorem finish_dstate : (finish s).dstate = s.dstate := rfl
@[simp] theorem finish_walk : (finish s).walk = s.walk := rfl
@[simp] theorem finish_dbyte : (finish s).dbyte = s.dbyte := rfl
@[simp] theorem finish_dbits : (finish s).dbits = s.dbits := rfl
@[simp] theorem finish_next : (finish s).next = s.next := rfl
@[simp] theorem finish_pstack : (finish s).pstack = s.pstack := rfl
@[simp] theorem finish_seen : (finish s).seen = s.seen := rfl
@[simp] theorem finish_inFifo : (finish s).inFifo = s.inFifo := rfl
@[simp] theorem finish_outFifo : (finish s).outFifo = s.outFifo := rfl
@[simp] theorem finish_busy : (finish s).busy = false := rfl
@[simp] theorem finish_point : (finish s).point = .accepted := rfl
@[simp] theorem finish_lop : (finish s).lop = s.lop := rfl
@[simp] theorem finish_lidx : (finish s).lidx = s.lidx := rfl
@[simp] theorem finish_larg : (finish s).larg = s.larg := rfl
@[simp] theorem finish_outbytes : (finish s).outbytes = s.outbytes := rfl
@[simp] theorem finish_emitted : (finish s).emitted = s.emitted := rfl
@[simp] theorem finish_done : (finish s).done = true := rfl
@[simp] theorem finish_err : (finish s).err = s.err := rfl
@[simp] theorem finish_partialEnd : (finish s).partialEnd = s.partialEnd := rfl
@[simp] theorem finish_trunc : (finish s).trunc = s.trunc := rfl
@[simp] theorem finish_extra : (finish s).extra = s.extra := rfl
@[simp] theorem finish_inovf : (finish s).inovf = s.inovf := rfl
@[simp] theorem finish_cmdrej : (finish s).cmdrej = s.cmdrej := rfl
@[simp] theorem finish_errcode : (finish s).errcode = s.errcode := rfl
@[simp] theorem finish_ieDone : (finish s).ieDone = s.ieDone := rfl
@[simp] theorem finish_ieErr : (finish s).ieErr = s.ieErr := rfl
@[simp] theorem finish_arg : (finish s).arg = s.arg := rfl
@[simp] theorem finish_res0 : (finish s).res0 = s.res0 := rfl
@[simp] theorem finish_res1 : (finish s).res1 = s.res1 := rfl
@[simp] theorem finish_res2 : (finish s).res2 = s.res2 := rfl
@[simp] theorem finish_inDepth : (finish s).inDepth = s.inDepth := rfl
@[simp] theorem finish_outDepth : (finish s).outDepth = s.outDepth := rfl
@[simp] theorem finish_sched : (finish s).sched = s.sched := rfl
@[simp] theorem finish_reads : (finish s).reads = s.reads := rfl

/-! ### `raiseError` -/

@[simp] theorem raiseError_freq (e : HuffError) : (raiseError e s).freq = s.freq := rfl
@[simp] theorem raiseError_node (e : HuffError) : (raiseError e s).node = s.node := rfl
@[simp] theorem raiseError_code (e : HuffError) : (raiseError e s).code = s.code := rfl
@[simp] theorem raiseError_total (e : HuffError) : (raiseError e s).total = s.total := rfl
@[simp] theorem raiseError_nsym (e : HuffError) : (raiseError e s).nsym = s.nsym := rfl
@[simp] theorem raiseError_dcount (e : HuffError) : (raiseError e s).dcount = s.dcount := rfl
@[simp] theorem raiseError_root (e : HuffError) : (raiseError e s).root = s.root := rfl
@[simp] theorem raiseError_treeValid (e : HuffError) : (raiseError e s).treeValid = s.treeValid := rfl
@[simp] theorem raiseError_treeDec (e : HuffError) : (raiseError e s).treeDec = s.treeDec := rfl
@[simp] theorem raiseError_codesValid (e : HuffError) : (raiseError e s).codesValid = s.codesValid := rfl
@[simp] theorem raiseError_acc (e : HuffError) : (raiseError e s).acc = s.acc := rfl
@[simp] theorem raiseError_dstate (e : HuffError) : (raiseError e s).dstate = s.dstate := rfl
@[simp] theorem raiseError_walk (e : HuffError) : (raiseError e s).walk = s.walk := rfl
@[simp] theorem raiseError_dbyte (e : HuffError) : (raiseError e s).dbyte = s.dbyte := rfl
@[simp] theorem raiseError_dbits (e : HuffError) : (raiseError e s).dbits = s.dbits := rfl
@[simp] theorem raiseError_next (e : HuffError) : (raiseError e s).next = s.next := rfl
@[simp] theorem raiseError_pstack (e : HuffError) : (raiseError e s).pstack = s.pstack := rfl
@[simp] theorem raiseError_seen (e : HuffError) : (raiseError e s).seen = s.seen := rfl
@[simp] theorem raiseError_inFifo (e : HuffError) : (raiseError e s).inFifo = s.inFifo := rfl
@[simp] theorem raiseError_outFifo (e : HuffError) : (raiseError e s).outFifo = s.outFifo := rfl
@[simp] theorem raiseError_busy (e : HuffError) : (raiseError e s).busy = false := rfl
@[simp] theorem raiseError_point (e : HuffError) : (raiseError e s).point = .accepted := rfl
@[simp] theorem raiseError_lop (e : HuffError) : (raiseError e s).lop = s.lop := rfl
@[simp] theorem raiseError_lidx (e : HuffError) : (raiseError e s).lidx = s.lidx := rfl
@[simp] theorem raiseError_larg (e : HuffError) : (raiseError e s).larg = s.larg := rfl
@[simp] theorem raiseError_outbytes (e : HuffError) : (raiseError e s).outbytes = s.outbytes := rfl
@[simp] theorem raiseError_emitted (e : HuffError) : (raiseError e s).emitted = s.emitted := rfl
@[simp] theorem raiseError_done (e : HuffError) : (raiseError e s).done = s.done := rfl
@[simp] theorem raiseError_err (e : HuffError) : (raiseError e s).err = true := rfl
@[simp] theorem raiseError_partialEnd (e : HuffError) : (raiseError e s).partialEnd = s.partialEnd := rfl
@[simp] theorem raiseError_trunc (e : HuffError) : (raiseError e s).trunc = s.trunc := rfl
@[simp] theorem raiseError_extra (e : HuffError) : (raiseError e s).extra = s.extra := rfl
@[simp] theorem raiseError_inovf (e : HuffError) : (raiseError e s).inovf = s.inovf := rfl
@[simp] theorem raiseError_cmdrej (e : HuffError) : (raiseError e s).cmdrej = s.cmdrej := rfl
@[simp] theorem raiseError_errcode (e : HuffError) : (raiseError e s).errcode = e.toCode := rfl
@[simp] theorem raiseError_ieDone (e : HuffError) : (raiseError e s).ieDone = s.ieDone := rfl
@[simp] theorem raiseError_ieErr (e : HuffError) : (raiseError e s).ieErr = s.ieErr := rfl
@[simp] theorem raiseError_arg (e : HuffError) : (raiseError e s).arg = s.arg := rfl
@[simp] theorem raiseError_res0 (e : HuffError) : (raiseError e s).res0 = s.res0 := rfl
@[simp] theorem raiseError_res1 (e : HuffError) : (raiseError e s).res1 = s.res1 := rfl
@[simp] theorem raiseError_res2 (e : HuffError) : (raiseError e s).res2 = s.res2 := rfl
@[simp] theorem raiseError_inDepth (e : HuffError) : (raiseError e s).inDepth = s.inDepth := rfl
@[simp] theorem raiseError_outDepth (e : HuffError) : (raiseError e s).outDepth = s.outDepth := rfl
@[simp] theorem raiseError_sched (e : HuffError) : (raiseError e s).sched = s.sched := rfl
@[simp] theorem raiseError_reads (e : HuffError) : (raiseError e s).reads = s.reads := rfl

/-! ### `clearError` -/

@[simp] theorem clearError_freq : (clearError s).freq = s.freq := rfl
@[simp] theorem clearError_node : (clearError s).node = s.node := rfl
@[simp] theorem clearError_code : (clearError s).code = s.code := rfl
@[simp] theorem clearError_total : (clearError s).total = s.total := rfl
@[simp] theorem clearError_nsym : (clearError s).nsym = s.nsym := rfl
@[simp] theorem clearError_dcount : (clearError s).dcount = s.dcount := rfl
@[simp] theorem clearError_root : (clearError s).root = s.root := rfl
@[simp] theorem clearError_treeValid : (clearError s).treeValid = s.treeValid := rfl
@[simp] theorem clearError_treeDec : (clearError s).treeDec = s.treeDec := rfl
@[simp] theorem clearError_codesValid : (clearError s).codesValid = s.codesValid := rfl
@[simp] theorem clearError_acc : (clearError s).acc = s.acc := rfl
@[simp] theorem clearError_dstate : (clearError s).dstate = s.dstate := rfl
@[simp] theorem clearError_walk : (clearError s).walk = s.walk := rfl
@[simp] theorem clearError_dbyte : (clearError s).dbyte = s.dbyte := rfl
@[simp] theorem clearError_dbits : (clearError s).dbits = s.dbits := rfl
@[simp] theorem clearError_next : (clearError s).next = s.next := rfl
@[simp] theorem clearError_pstack : (clearError s).pstack = s.pstack := rfl
@[simp] theorem clearError_seen : (clearError s).seen = s.seen := rfl
@[simp] theorem clearError_inFifo : (clearError s).inFifo = s.inFifo := rfl
@[simp] theorem clearError_outFifo : (clearError s).outFifo = s.outFifo := rfl
@[simp] theorem clearError_busy : (clearError s).busy = s.busy := rfl
@[simp] theorem clearError_point : (clearError s).point = s.point := rfl
@[simp] theorem clearError_lop : (clearError s).lop = s.lop := rfl
@[simp] theorem clearError_lidx : (clearError s).lidx = s.lidx := rfl
@[simp] theorem clearError_larg : (clearError s).larg = s.larg := rfl
@[simp] theorem clearError_outbytes : (clearError s).outbytes = s.outbytes := rfl
@[simp] theorem clearError_emitted : (clearError s).emitted = s.emitted := rfl
@[simp] theorem clearError_done : (clearError s).done = s.done := rfl
@[simp] theorem clearError_err : (clearError s).err = false := rfl
@[simp] theorem clearError_partialEnd : (clearError s).partialEnd = s.partialEnd := rfl
@[simp] theorem clearError_trunc : (clearError s).trunc = s.trunc := rfl
@[simp] theorem clearError_extra : (clearError s).extra = s.extra := rfl
@[simp] theorem clearError_inovf : (clearError s).inovf = s.inovf := rfl
@[simp] theorem clearError_cmdrej : (clearError s).cmdrej = s.cmdrej := rfl
@[simp] theorem clearError_errcode : (clearError s).errcode = 0 := rfl
@[simp] theorem clearError_ieDone : (clearError s).ieDone = s.ieDone := rfl
@[simp] theorem clearError_ieErr : (clearError s).ieErr = s.ieErr := rfl
@[simp] theorem clearError_arg : (clearError s).arg = s.arg := rfl
@[simp] theorem clearError_res0 : (clearError s).res0 = s.res0 := rfl
@[simp] theorem clearError_res1 : (clearError s).res1 = s.res1 := rfl
@[simp] theorem clearError_res2 : (clearError s).res2 = s.res2 := rfl
@[simp] theorem clearError_inDepth : (clearError s).inDepth = s.inDepth := rfl
@[simp] theorem clearError_outDepth : (clearError s).outDepth = s.outDepth := rfl
@[simp] theorem clearError_sched : (clearError s).sched = s.sched := rfl
@[simp] theorem clearError_reads : (clearError s).reads = s.reads := rfl

/-! ### `goto` -/

@[simp] theorem goto_freq (p : Point) : (goto p s).freq = s.freq := rfl
@[simp] theorem goto_node (p : Point) : (goto p s).node = s.node := rfl
@[simp] theorem goto_code (p : Point) : (goto p s).code = s.code := rfl
@[simp] theorem goto_total (p : Point) : (goto p s).total = s.total := rfl
@[simp] theorem goto_nsym (p : Point) : (goto p s).nsym = s.nsym := rfl
@[simp] theorem goto_dcount (p : Point) : (goto p s).dcount = s.dcount := rfl
@[simp] theorem goto_root (p : Point) : (goto p s).root = s.root := rfl
@[simp] theorem goto_treeValid (p : Point) : (goto p s).treeValid = s.treeValid := rfl
@[simp] theorem goto_treeDec (p : Point) : (goto p s).treeDec = s.treeDec := rfl
@[simp] theorem goto_codesValid (p : Point) : (goto p s).codesValid = s.codesValid := rfl
@[simp] theorem goto_acc (p : Point) : (goto p s).acc = s.acc := rfl
@[simp] theorem goto_dstate (p : Point) : (goto p s).dstate = s.dstate := rfl
@[simp] theorem goto_walk (p : Point) : (goto p s).walk = s.walk := rfl
@[simp] theorem goto_dbyte (p : Point) : (goto p s).dbyte = s.dbyte := rfl
@[simp] theorem goto_dbits (p : Point) : (goto p s).dbits = s.dbits := rfl
@[simp] theorem goto_next (p : Point) : (goto p s).next = s.next := rfl
@[simp] theorem goto_pstack (p : Point) : (goto p s).pstack = s.pstack := rfl
@[simp] theorem goto_seen (p : Point) : (goto p s).seen = s.seen := rfl
@[simp] theorem goto_inFifo (p : Point) : (goto p s).inFifo = s.inFifo := rfl
@[simp] theorem goto_outFifo (p : Point) : (goto p s).outFifo = s.outFifo := rfl
@[simp] theorem goto_busy (p : Point) : (goto p s).busy = s.busy := rfl
@[simp] theorem goto_point (p : Point) : (goto p s).point = p := rfl
@[simp] theorem goto_lop (p : Point) : (goto p s).lop = s.lop := rfl
@[simp] theorem goto_lidx (p : Point) : (goto p s).lidx = s.lidx := rfl
@[simp] theorem goto_larg (p : Point) : (goto p s).larg = s.larg := rfl
@[simp] theorem goto_outbytes (p : Point) : (goto p s).outbytes = s.outbytes := rfl
@[simp] theorem goto_emitted (p : Point) : (goto p s).emitted = s.emitted := rfl
@[simp] theorem goto_done (p : Point) : (goto p s).done = s.done := rfl
@[simp] theorem goto_err (p : Point) : (goto p s).err = s.err := rfl
@[simp] theorem goto_partialEnd (p : Point) : (goto p s).partialEnd = s.partialEnd := rfl
@[simp] theorem goto_trunc (p : Point) : (goto p s).trunc = s.trunc := rfl
@[simp] theorem goto_extra (p : Point) : (goto p s).extra = s.extra := rfl
@[simp] theorem goto_inovf (p : Point) : (goto p s).inovf = s.inovf := rfl
@[simp] theorem goto_cmdrej (p : Point) : (goto p s).cmdrej = s.cmdrej := rfl
@[simp] theorem goto_errcode (p : Point) : (goto p s).errcode = s.errcode := rfl
@[simp] theorem goto_ieDone (p : Point) : (goto p s).ieDone = s.ieDone := rfl
@[simp] theorem goto_ieErr (p : Point) : (goto p s).ieErr = s.ieErr := rfl
@[simp] theorem goto_arg (p : Point) : (goto p s).arg = s.arg := rfl
@[simp] theorem goto_res0 (p : Point) : (goto p s).res0 = s.res0 := rfl
@[simp] theorem goto_res1 (p : Point) : (goto p s).res1 = s.res1 := rfl
@[simp] theorem goto_res2 (p : Point) : (goto p s).res2 = s.res2 := rfl
@[simp] theorem goto_inDepth (p : Point) : (goto p s).inDepth = s.inDepth := rfl
@[simp] theorem goto_outDepth (p : Point) : (goto p s).outDepth = s.outDepth := rfl
@[simp] theorem goto_sched (p : Point) : (goto p s).sched = s.sched := rfl
@[simp] theorem goto_reads (p : Point) : (goto p s).reads = s.reads := rfl

/-! ### `setNode` -/

@[simp] theorem setNode_freq (i : Fin 511) (n : Node) : (s.setNode i n).freq = s.freq := rfl
@[simp] theorem setNode_node (i : Fin 511) (n : Node) : (s.setNode i n).node = s.node.set i n := rfl
@[simp] theorem setNode_code (i : Fin 511) (n : Node) : (s.setNode i n).code = s.code := rfl
@[simp] theorem setNode_total (i : Fin 511) (n : Node) : (s.setNode i n).total = s.total := rfl
@[simp] theorem setNode_nsym (i : Fin 511) (n : Node) : (s.setNode i n).nsym = s.nsym := rfl
@[simp] theorem setNode_dcount (i : Fin 511) (n : Node) : (s.setNode i n).dcount = s.dcount := rfl
@[simp] theorem setNode_root (i : Fin 511) (n : Node) : (s.setNode i n).root = s.root := rfl
@[simp] theorem setNode_treeValid (i : Fin 511) (n : Node) : (s.setNode i n).treeValid = s.treeValid := rfl
@[simp] theorem setNode_treeDec (i : Fin 511) (n : Node) : (s.setNode i n).treeDec = s.treeDec := rfl
@[simp] theorem setNode_codesValid (i : Fin 511) (n : Node) : (s.setNode i n).codesValid = s.codesValid := rfl
@[simp] theorem setNode_acc (i : Fin 511) (n : Node) : (s.setNode i n).acc = s.acc := rfl
@[simp] theorem setNode_dstate (i : Fin 511) (n : Node) : (s.setNode i n).dstate = s.dstate := rfl
@[simp] theorem setNode_walk (i : Fin 511) (n : Node) : (s.setNode i n).walk = s.walk := rfl
@[simp] theorem setNode_dbyte (i : Fin 511) (n : Node) : (s.setNode i n).dbyte = s.dbyte := rfl
@[simp] theorem setNode_dbits (i : Fin 511) (n : Node) : (s.setNode i n).dbits = s.dbits := rfl
@[simp] theorem setNode_next (i : Fin 511) (n : Node) : (s.setNode i n).next = s.next := rfl
@[simp] theorem setNode_pstack (i : Fin 511) (n : Node) : (s.setNode i n).pstack = s.pstack := rfl
@[simp] theorem setNode_seen (i : Fin 511) (n : Node) : (s.setNode i n).seen = s.seen := rfl
@[simp] theorem setNode_inFifo (i : Fin 511) (n : Node) : (s.setNode i n).inFifo = s.inFifo := rfl
@[simp] theorem setNode_outFifo (i : Fin 511) (n : Node) : (s.setNode i n).outFifo = s.outFifo := rfl
@[simp] theorem setNode_busy (i : Fin 511) (n : Node) : (s.setNode i n).busy = s.busy := rfl
@[simp] theorem setNode_point (i : Fin 511) (n : Node) : (s.setNode i n).point = s.point := rfl
@[simp] theorem setNode_lop (i : Fin 511) (n : Node) : (s.setNode i n).lop = s.lop := rfl
@[simp] theorem setNode_lidx (i : Fin 511) (n : Node) : (s.setNode i n).lidx = s.lidx := rfl
@[simp] theorem setNode_larg (i : Fin 511) (n : Node) : (s.setNode i n).larg = s.larg := rfl
@[simp] theorem setNode_outbytes (i : Fin 511) (n : Node) : (s.setNode i n).outbytes = s.outbytes := rfl
@[simp] theorem setNode_emitted (i : Fin 511) (n : Node) : (s.setNode i n).emitted = s.emitted := rfl
@[simp] theorem setNode_done (i : Fin 511) (n : Node) : (s.setNode i n).done = s.done := rfl
@[simp] theorem setNode_err (i : Fin 511) (n : Node) : (s.setNode i n).err = s.err := rfl
@[simp] theorem setNode_partialEnd (i : Fin 511) (n : Node) : (s.setNode i n).partialEnd = s.partialEnd := rfl
@[simp] theorem setNode_trunc (i : Fin 511) (n : Node) : (s.setNode i n).trunc = s.trunc := rfl
@[simp] theorem setNode_extra (i : Fin 511) (n : Node) : (s.setNode i n).extra = s.extra := rfl
@[simp] theorem setNode_inovf (i : Fin 511) (n : Node) : (s.setNode i n).inovf = s.inovf := rfl
@[simp] theorem setNode_cmdrej (i : Fin 511) (n : Node) : (s.setNode i n).cmdrej = s.cmdrej := rfl
@[simp] theorem setNode_errcode (i : Fin 511) (n : Node) : (s.setNode i n).errcode = s.errcode := rfl
@[simp] theorem setNode_ieDone (i : Fin 511) (n : Node) : (s.setNode i n).ieDone = s.ieDone := rfl
@[simp] theorem setNode_ieErr (i : Fin 511) (n : Node) : (s.setNode i n).ieErr = s.ieErr := rfl
@[simp] theorem setNode_arg (i : Fin 511) (n : Node) : (s.setNode i n).arg = s.arg := rfl
@[simp] theorem setNode_res0 (i : Fin 511) (n : Node) : (s.setNode i n).res0 = s.res0 := rfl
@[simp] theorem setNode_res1 (i : Fin 511) (n : Node) : (s.setNode i n).res1 = s.res1 := rfl
@[simp] theorem setNode_res2 (i : Fin 511) (n : Node) : (s.setNode i n).res2 = s.res2 := rfl
@[simp] theorem setNode_inDepth (i : Fin 511) (n : Node) : (s.setNode i n).inDepth = s.inDepth := rfl
@[simp] theorem setNode_outDepth (i : Fin 511) (n : Node) : (s.setNode i n).outDepth = s.outDepth := rfl
@[simp] theorem setNode_sched (i : Fin 511) (n : Node) : (s.setNode i n).sched = s.sched := rfl
@[simp] theorem setNode_reads (i : Fin 511) (n : Node) : (s.setNode i n).reads = s.reads := rfl

/-! ### `endWalk` -/

@[simp] theorem endWalk_freq : (endWalk s).freq = s.freq := rfl
@[simp] theorem endWalk_node : (endWalk s).node = s.node := rfl
@[simp] theorem endWalk_code : (endWalk s).code = s.code := rfl
@[simp] theorem endWalk_total : (endWalk s).total = s.total := rfl
@[simp] theorem endWalk_nsym : (endWalk s).nsym = s.nsym := rfl
@[simp] theorem endWalk_dcount : (endWalk s).dcount = s.dcount := rfl
@[simp] theorem endWalk_root : (endWalk s).root = s.root := rfl
@[simp] theorem endWalk_treeValid : (endWalk s).treeValid = s.treeValid := rfl
@[simp] theorem endWalk_treeDec : (endWalk s).treeDec = s.treeDec := rfl
@[simp] theorem endWalk_codesValid : (endWalk s).codesValid = s.codesValid := rfl
@[simp] theorem endWalk_acc : (endWalk s).acc = s.acc := rfl
@[simp] theorem endWalk_dstate : (endWalk s).dstate = s.dstate := rfl
@[simp] theorem endWalk_walk : (endWalk s).walk = none := rfl
@[simp] theorem endWalk_dbyte : (endWalk s).dbyte = s.dbyte := rfl
@[simp] theorem endWalk_dbits : (endWalk s).dbits = s.dbits := rfl
@[simp] theorem endWalk_next : (endWalk s).next = s.next := rfl
@[simp] theorem endWalk_pstack : (endWalk s).pstack = s.pstack := rfl
@[simp] theorem endWalk_seen : (endWalk s).seen = s.seen := rfl
@[simp] theorem endWalk_inFifo : (endWalk s).inFifo = s.inFifo := rfl
@[simp] theorem endWalk_outFifo : (endWalk s).outFifo = s.outFifo := rfl
@[simp] theorem endWalk_busy : (endWalk s).busy = s.busy := rfl
@[simp] theorem endWalk_point : (endWalk s).point = s.point := rfl
@[simp] theorem endWalk_lop : (endWalk s).lop = s.lop := rfl
@[simp] theorem endWalk_lidx : (endWalk s).lidx = s.lidx := rfl
@[simp] theorem endWalk_larg : (endWalk s).larg = s.larg := rfl
@[simp] theorem endWalk_outbytes : (endWalk s).outbytes = s.outbytes := rfl
@[simp] theorem endWalk_emitted : (endWalk s).emitted = s.emitted := rfl
@[simp] theorem endWalk_done : (endWalk s).done = s.done := rfl
@[simp] theorem endWalk_err : (endWalk s).err = s.err := rfl
@[simp] theorem endWalk_partialEnd : (endWalk s).partialEnd = s.partialEnd := rfl
@[simp] theorem endWalk_trunc : (endWalk s).trunc = s.trunc := rfl
@[simp] theorem endWalk_extra : (endWalk s).extra = s.extra := rfl
@[simp] theorem endWalk_inovf : (endWalk s).inovf = s.inovf := rfl
@[simp] theorem endWalk_cmdrej : (endWalk s).cmdrej = s.cmdrej := rfl
@[simp] theorem endWalk_errcode : (endWalk s).errcode = s.errcode := rfl
@[simp] theorem endWalk_ieDone : (endWalk s).ieDone = s.ieDone := rfl
@[simp] theorem endWalk_ieErr : (endWalk s).ieErr = s.ieErr := rfl
@[simp] theorem endWalk_arg : (endWalk s).arg = s.arg := rfl
@[simp] theorem endWalk_res0 : (endWalk s).res0 = s.res0 := rfl
@[simp] theorem endWalk_res1 : (endWalk s).res1 = s.res1 := rfl
@[simp] theorem endWalk_res2 : (endWalk s).res2 = s.res2 := rfl
@[simp] theorem endWalk_inDepth : (endWalk s).inDepth = s.inDepth := rfl
@[simp] theorem endWalk_outDepth : (endWalk s).outDepth = s.outDepth := rfl
@[simp] theorem endWalk_sched : (endWalk s).sched = s.sched := rfl
@[simp] theorem endWalk_reads : (endWalk s).reads = s.reads := rfl

/-! ### `walkTo` -/

@[simp] theorem walkTo_freq (d : Fin 511) : (walkTo d s).freq = s.freq := rfl
@[simp] theorem walkTo_node (d : Fin 511) : (walkTo d s).node = s.node := rfl
@[simp] theorem walkTo_code (d : Fin 511) : (walkTo d s).code = s.code := rfl
@[simp] theorem walkTo_total (d : Fin 511) : (walkTo d s).total = s.total := rfl
@[simp] theorem walkTo_nsym (d : Fin 511) : (walkTo d s).nsym = s.nsym := rfl
@[simp] theorem walkTo_dcount (d : Fin 511) : (walkTo d s).dcount = s.dcount := rfl
@[simp] theorem walkTo_root (d : Fin 511) : (walkTo d s).root = s.root := rfl
@[simp] theorem walkTo_treeValid (d : Fin 511) : (walkTo d s).treeValid = s.treeValid := rfl
@[simp] theorem walkTo_treeDec (d : Fin 511) : (walkTo d s).treeDec = s.treeDec := rfl
@[simp] theorem walkTo_codesValid (d : Fin 511) : (walkTo d s).codesValid = s.codesValid := rfl
@[simp] theorem walkTo_acc (d : Fin 511) : (walkTo d s).acc = s.acc := rfl
@[simp] theorem walkTo_dstate (d : Fin 511) : (walkTo d s).dstate = s.dstate := rfl
@[simp] theorem walkTo_walk (d : Fin 511) : (walkTo d s).walk = some d := rfl
@[simp] theorem walkTo_dbyte (d : Fin 511) : (walkTo d s).dbyte = s.dbyte := rfl
@[simp] theorem walkTo_dbits (d : Fin 511) : (walkTo d s).dbits = s.dbits := rfl
@[simp] theorem walkTo_next (d : Fin 511) : (walkTo d s).next = s.next := rfl
@[simp] theorem walkTo_pstack (d : Fin 511) : (walkTo d s).pstack = s.pstack := rfl
@[simp] theorem walkTo_seen (d : Fin 511) : (walkTo d s).seen = s.seen := rfl
@[simp] theorem walkTo_inFifo (d : Fin 511) : (walkTo d s).inFifo = s.inFifo := rfl
@[simp] theorem walkTo_outFifo (d : Fin 511) : (walkTo d s).outFifo = s.outFifo := rfl
@[simp] theorem walkTo_busy (d : Fin 511) : (walkTo d s).busy = s.busy := rfl
@[simp] theorem walkTo_point (d : Fin 511) : (walkTo d s).point = s.point := rfl
@[simp] theorem walkTo_lop (d : Fin 511) : (walkTo d s).lop = s.lop := rfl
@[simp] theorem walkTo_lidx (d : Fin 511) : (walkTo d s).lidx = s.lidx := rfl
@[simp] theorem walkTo_larg (d : Fin 511) : (walkTo d s).larg = s.larg := rfl
@[simp] theorem walkTo_outbytes (d : Fin 511) : (walkTo d s).outbytes = s.outbytes := rfl
@[simp] theorem walkTo_emitted (d : Fin 511) : (walkTo d s).emitted = s.emitted := rfl
@[simp] theorem walkTo_done (d : Fin 511) : (walkTo d s).done = s.done := rfl
@[simp] theorem walkTo_err (d : Fin 511) : (walkTo d s).err = s.err := rfl
@[simp] theorem walkTo_partialEnd (d : Fin 511) : (walkTo d s).partialEnd = s.partialEnd := rfl
@[simp] theorem walkTo_trunc (d : Fin 511) : (walkTo d s).trunc = s.trunc := rfl
@[simp] theorem walkTo_extra (d : Fin 511) : (walkTo d s).extra = s.extra := rfl
@[simp] theorem walkTo_inovf (d : Fin 511) : (walkTo d s).inovf = s.inovf := rfl
@[simp] theorem walkTo_cmdrej (d : Fin 511) : (walkTo d s).cmdrej = s.cmdrej := rfl
@[simp] theorem walkTo_errcode (d : Fin 511) : (walkTo d s).errcode = s.errcode := rfl
@[simp] theorem walkTo_ieDone (d : Fin 511) : (walkTo d s).ieDone = s.ieDone := rfl
@[simp] theorem walkTo_ieErr (d : Fin 511) : (walkTo d s).ieErr = s.ieErr := rfl
@[simp] theorem walkTo_arg (d : Fin 511) : (walkTo d s).arg = s.arg := rfl
@[simp] theorem walkTo_res0 (d : Fin 511) : (walkTo d s).res0 = s.res0 := rfl
@[simp] theorem walkTo_res1 (d : Fin 511) : (walkTo d s).res1 = s.res1 := rfl
@[simp] theorem walkTo_res2 (d : Fin 511) : (walkTo d s).res2 = s.res2 := rfl
@[simp] theorem walkTo_inDepth (d : Fin 511) : (walkTo d s).inDepth = s.inDepth := rfl
@[simp] theorem walkTo_outDepth (d : Fin 511) : (walkTo d s).outDepth = s.outDepth := rfl
@[simp] theorem walkTo_sched (d : Fin 511) : (walkTo d s).sched = s.sched := rfl
@[simp] theorem walkTo_reads (d : Fin 511) : (walkTo d s).reads = s.reads := rfl

/-! ### `setResult` -/

@[simp] theorem setResult_freq (a b c : Word) : (setResult a b c s).freq = s.freq := rfl
@[simp] theorem setResult_node (a b c : Word) : (setResult a b c s).node = s.node := rfl
@[simp] theorem setResult_code (a b c : Word) : (setResult a b c s).code = s.code := rfl
@[simp] theorem setResult_total (a b c : Word) : (setResult a b c s).total = s.total := rfl
@[simp] theorem setResult_nsym (a b c : Word) : (setResult a b c s).nsym = s.nsym := rfl
@[simp] theorem setResult_dcount (a b c : Word) : (setResult a b c s).dcount = s.dcount := rfl
@[simp] theorem setResult_root (a b c : Word) : (setResult a b c s).root = s.root := rfl
@[simp] theorem setResult_treeValid (a b c : Word) : (setResult a b c s).treeValid = s.treeValid := rfl
@[simp] theorem setResult_treeDec (a b c : Word) : (setResult a b c s).treeDec = s.treeDec := rfl
@[simp] theorem setResult_codesValid (a b c : Word) : (setResult a b c s).codesValid = s.codesValid := rfl
@[simp] theorem setResult_acc (a b c : Word) : (setResult a b c s).acc = s.acc := rfl
@[simp] theorem setResult_dstate (a b c : Word) : (setResult a b c s).dstate = s.dstate := rfl
@[simp] theorem setResult_walk (a b c : Word) : (setResult a b c s).walk = s.walk := rfl
@[simp] theorem setResult_dbyte (a b c : Word) : (setResult a b c s).dbyte = s.dbyte := rfl
@[simp] theorem setResult_dbits (a b c : Word) : (setResult a b c s).dbits = s.dbits := rfl
@[simp] theorem setResult_next (a b c : Word) : (setResult a b c s).next = s.next := rfl
@[simp] theorem setResult_pstack (a b c : Word) : (setResult a b c s).pstack = s.pstack := rfl
@[simp] theorem setResult_seen (a b c : Word) : (setResult a b c s).seen = s.seen := rfl
@[simp] theorem setResult_inFifo (a b c : Word) : (setResult a b c s).inFifo = s.inFifo := rfl
@[simp] theorem setResult_outFifo (a b c : Word) : (setResult a b c s).outFifo = s.outFifo := rfl
@[simp] theorem setResult_busy (a b c : Word) : (setResult a b c s).busy = s.busy := rfl
@[simp] theorem setResult_point (a b c : Word) : (setResult a b c s).point = s.point := rfl
@[simp] theorem setResult_lop (a b c : Word) : (setResult a b c s).lop = s.lop := rfl
@[simp] theorem setResult_lidx (a b c : Word) : (setResult a b c s).lidx = s.lidx := rfl
@[simp] theorem setResult_larg (a b c : Word) : (setResult a b c s).larg = s.larg := rfl
@[simp] theorem setResult_outbytes (a b c : Word) : (setResult a b c s).outbytes = s.outbytes := rfl
@[simp] theorem setResult_emitted (a b c : Word) : (setResult a b c s).emitted = s.emitted := rfl
@[simp] theorem setResult_done (a b c : Word) : (setResult a b c s).done = s.done := rfl
@[simp] theorem setResult_err (a b c : Word) : (setResult a b c s).err = s.err := rfl
@[simp] theorem setResult_partialEnd (a b c : Word) : (setResult a b c s).partialEnd = s.partialEnd := rfl
@[simp] theorem setResult_trunc (a b c : Word) : (setResult a b c s).trunc = s.trunc := rfl
@[simp] theorem setResult_extra (a b c : Word) : (setResult a b c s).extra = s.extra := rfl
@[simp] theorem setResult_inovf (a b c : Word) : (setResult a b c s).inovf = s.inovf := rfl
@[simp] theorem setResult_cmdrej (a b c : Word) : (setResult a b c s).cmdrej = s.cmdrej := rfl
@[simp] theorem setResult_errcode (a b c : Word) : (setResult a b c s).errcode = s.errcode := rfl
@[simp] theorem setResult_ieDone (a b c : Word) : (setResult a b c s).ieDone = s.ieDone := rfl
@[simp] theorem setResult_ieErr (a b c : Word) : (setResult a b c s).ieErr = s.ieErr := rfl
@[simp] theorem setResult_arg (a b c : Word) : (setResult a b c s).arg = s.arg := rfl
@[simp] theorem setResult_res0 (a b c : Word) : (setResult a b c s).res0 = a := rfl
@[simp] theorem setResult_res1 (a b c : Word) : (setResult a b c s).res1 = b := rfl
@[simp] theorem setResult_res2 (a b c : Word) : (setResult a b c s).res2 = c := rfl
@[simp] theorem setResult_inDepth (a b c : Word) : (setResult a b c s).inDepth = s.inDepth := rfl
@[simp] theorem setResult_outDepth (a b c : Word) : (setResult a b c s).outDepth = s.outDepth := rfl
@[simp] theorem setResult_sched (a b c : Word) : (setResult a b c s).sched = s.sched := rfl
@[simp] theorem setResult_reads (a b c : Word) : (setResult a b c s).reads = s.reads := rfl

/-! ### `latch` -/

@[simp] theorem latch_freq (c : Instr) : (latch c s).freq = s.freq := rfl
@[simp] theorem latch_node (c : Instr) : (latch c s).node = s.node := rfl
@[simp] theorem latch_code (c : Instr) : (latch c s).code = s.code := rfl
@[simp] theorem latch_total (c : Instr) : (latch c s).total = s.total := rfl
@[simp] theorem latch_nsym (c : Instr) : (latch c s).nsym = s.nsym := rfl
@[simp] theorem latch_dcount (c : Instr) : (latch c s).dcount = s.dcount := rfl
@[simp] theorem latch_root (c : Instr) : (latch c s).root = s.root := rfl
@[simp] theorem latch_treeValid (c : Instr) : (latch c s).treeValid = s.treeValid := rfl
@[simp] theorem latch_treeDec (c : Instr) : (latch c s).treeDec = s.treeDec := rfl
@[simp] theorem latch_codesValid (c : Instr) : (latch c s).codesValid = s.codesValid := rfl
@[simp] theorem latch_acc (c : Instr) : (latch c s).acc = s.acc := rfl
@[simp] theorem latch_dstate (c : Instr) : (latch c s).dstate = if c = .decode then s.dstate else .idle := rfl
@[simp] theorem latch_walk (c : Instr) : (latch c s).walk = s.walk := rfl
@[simp] theorem latch_dbyte (c : Instr) : (latch c s).dbyte = s.dbyte := rfl
@[simp] theorem latch_dbits (c : Instr) : (latch c s).dbits = s.dbits := rfl
@[simp] theorem latch_next (c : Instr) : (latch c s).next = s.next := rfl
@[simp] theorem latch_pstack (c : Instr) : (latch c s).pstack = s.pstack := rfl
@[simp] theorem latch_seen (c : Instr) : (latch c s).seen = s.seen := rfl
@[simp] theorem latch_inFifo (c : Instr) : (latch c s).inFifo = s.inFifo := rfl
@[simp] theorem latch_outFifo (c : Instr) : (latch c s).outFifo = s.outFifo := rfl
@[simp] theorem latch_busy (c : Instr) : (latch c s).busy = true := rfl
@[simp] theorem latch_point (c : Instr) : (latch c s).point = .accepted := rfl
@[simp] theorem latch_lop (c : Instr) : (latch c s).lop = opField (encodeWord c) := rfl
@[simp] theorem latch_lidx (c : Instr) : (latch c s).lidx = idxField (encodeWord c) := rfl
@[simp] theorem latch_larg (c : Instr) : (latch c s).larg = s.arg := rfl
@[simp] theorem latch_outbytes (c : Instr) : (latch c s).outbytes = s.outbytes := rfl
@[simp] theorem latch_emitted (c : Instr) : (latch c s).emitted = s.emitted := rfl
@[simp] theorem latch_done (c : Instr) : (latch c s).done = s.done := rfl
@[simp] theorem latch_err (c : Instr) : (latch c s).err = s.err := rfl
@[simp] theorem latch_partialEnd (c : Instr) : (latch c s).partialEnd = s.partialEnd := rfl
@[simp] theorem latch_trunc (c : Instr) : (latch c s).trunc = s.trunc := rfl
@[simp] theorem latch_extra (c : Instr) : (latch c s).extra = s.extra := rfl
@[simp] theorem latch_inovf (c : Instr) : (latch c s).inovf = s.inovf := rfl
@[simp] theorem latch_cmdrej (c : Instr) : (latch c s).cmdrej = s.cmdrej := rfl
@[simp] theorem latch_errcode (c : Instr) : (latch c s).errcode = s.errcode := rfl
@[simp] theorem latch_ieDone (c : Instr) : (latch c s).ieDone = s.ieDone := rfl
@[simp] theorem latch_ieErr (c : Instr) : (latch c s).ieErr = s.ieErr := rfl
@[simp] theorem latch_arg (c : Instr) : (latch c s).arg = s.arg := rfl
@[simp] theorem latch_res0 (c : Instr) : (latch c s).res0 = s.res0 := rfl
@[simp] theorem latch_res1 (c : Instr) : (latch c s).res1 = s.res1 := rfl
@[simp] theorem latch_res2 (c : Instr) : (latch c s).res2 = s.res2 := rfl
@[simp] theorem latch_inDepth (c : Instr) : (latch c s).inDepth = s.inDepth := rfl
@[simp] theorem latch_outDepth (c : Instr) : (latch c s).outDepth = s.outDepth := rfl
@[simp] theorem latch_sched (c : Instr) : (latch c s).sched = s.sched := rfl
@[simp] theorem latch_reads (c : Instr) : (latch c s).reads = s.reads := rfl

/-! ### `resetHuff` -/

@[simp] theorem resetHuff_freq : (resetHuff s).freq = State.reset.freq := rfl
@[simp] theorem resetHuff_node : (resetHuff s).node = State.reset.node := rfl
@[simp] theorem resetHuff_code : (resetHuff s).code = State.reset.code := rfl
@[simp] theorem resetHuff_total : (resetHuff s).total = State.reset.total := rfl
@[simp] theorem resetHuff_nsym : (resetHuff s).nsym = State.reset.nsym := rfl
@[simp] theorem resetHuff_dcount : (resetHuff s).dcount = State.reset.dcount := rfl
@[simp] theorem resetHuff_root : (resetHuff s).root = State.reset.root := rfl
@[simp] theorem resetHuff_treeValid : (resetHuff s).treeValid = State.reset.treeValid := rfl
@[simp] theorem resetHuff_treeDec : (resetHuff s).treeDec = State.reset.treeDec := rfl
@[simp] theorem resetHuff_codesValid : (resetHuff s).codesValid = State.reset.codesValid := rfl
@[simp] theorem resetHuff_acc : (resetHuff s).acc = State.reset.acc := rfl
@[simp] theorem resetHuff_dstate : (resetHuff s).dstate = State.reset.dstate := rfl
@[simp] theorem resetHuff_walk : (resetHuff s).walk = State.reset.walk := rfl
@[simp] theorem resetHuff_dbyte : (resetHuff s).dbyte = State.reset.dbyte := rfl
@[simp] theorem resetHuff_dbits : (resetHuff s).dbits = State.reset.dbits := rfl
@[simp] theorem resetHuff_next : (resetHuff s).next = State.reset.next := rfl
@[simp] theorem resetHuff_pstack : (resetHuff s).pstack = State.reset.pstack := rfl
@[simp] theorem resetHuff_seen : (resetHuff s).seen = State.reset.seen := rfl
@[simp] theorem resetHuff_inFifo : (resetHuff s).inFifo = State.reset.inFifo := rfl
@[simp] theorem resetHuff_outFifo : (resetHuff s).outFifo = State.reset.outFifo := rfl
@[simp] theorem resetHuff_busy : (resetHuff s).busy = State.reset.busy := rfl
@[simp] theorem resetHuff_point : (resetHuff s).point = State.reset.point := rfl
@[simp] theorem resetHuff_lop : (resetHuff s).lop = State.reset.lop := rfl
@[simp] theorem resetHuff_lidx : (resetHuff s).lidx = State.reset.lidx := rfl
@[simp] theorem resetHuff_larg : (resetHuff s).larg = State.reset.larg := rfl
@[simp] theorem resetHuff_outbytes : (resetHuff s).outbytes = State.reset.outbytes := rfl
@[simp] theorem resetHuff_emitted : (resetHuff s).emitted = State.reset.emitted := rfl
@[simp] theorem resetHuff_done : (resetHuff s).done = State.reset.done := rfl
@[simp] theorem resetHuff_err : (resetHuff s).err = State.reset.err := rfl
@[simp] theorem resetHuff_partialEnd : (resetHuff s).partialEnd = State.reset.partialEnd := rfl
@[simp] theorem resetHuff_trunc : (resetHuff s).trunc = State.reset.trunc := rfl
@[simp] theorem resetHuff_extra : (resetHuff s).extra = State.reset.extra := rfl
@[simp] theorem resetHuff_inovf : (resetHuff s).inovf = State.reset.inovf := rfl
@[simp] theorem resetHuff_cmdrej : (resetHuff s).cmdrej = State.reset.cmdrej := rfl
@[simp] theorem resetHuff_errcode : (resetHuff s).errcode = State.reset.errcode := rfl
@[simp] theorem resetHuff_ieDone : (resetHuff s).ieDone = State.reset.ieDone := rfl
@[simp] theorem resetHuff_ieErr : (resetHuff s).ieErr = State.reset.ieErr := rfl
@[simp] theorem resetHuff_arg : (resetHuff s).arg = State.reset.arg := rfl
@[simp] theorem resetHuff_res0 : (resetHuff s).res0 = State.reset.res0 := rfl
@[simp] theorem resetHuff_res1 : (resetHuff s).res1 = State.reset.res1 := rfl
@[simp] theorem resetHuff_res2 : (resetHuff s).res2 = State.reset.res2 := rfl
@[simp] theorem resetHuff_inDepth : (resetHuff s).inDepth = s.inDepth := rfl
@[simp] theorem resetHuff_outDepth : (resetHuff s).outDepth = s.outDepth := rfl
@[simp] theorem resetHuff_sched : (resetHuff s).sched = s.sched := rfl
@[simp] theorem resetHuff_reads : (resetHuff s).reads = s.reads := rfl

/-! ### `cur` -/

/-- CUR is ROOT exactly when the walk, if there is one, stands at ROOT. -/
theorem cur_eq_root_iff : s.cur = s.root ↔ s.walk = none ∨ s.walk = s.root := by
  unfold State.cur
  cases s.walk <;> simp

/-- CUR is ROOT when no walk is in progress (10_state.md R43). -/
theorem cur_noWalk (h : s.walk = none) : s.cur = s.root := by simp [State.cur, h]

/-- CUR is where the walk in progress stands. -/
theorem cur_walk (d : Fin 511) (h : s.walk = some d) : s.cur = some d := by simp [State.cur, h]

/-- CUR depends on the walk and ROOT only. -/
theorem cur_congr {t : State} (hw : t.walk = s.walk) (hr : t.root = s.root) : t.cur = s.cur := by
  simp only [State.cur, hw, hr]

@[simp] theorem finish_cur : (finish s).cur = s.cur := rfl
@[simp] theorem raiseError_cur (e : HuffError) : (raiseError e s).cur = s.cur := rfl
@[simp] theorem clearError_cur : (clearError s).cur = s.cur := rfl
@[simp] theorem goto_cur (p : Point) : (goto p s).cur = s.cur := rfl
@[simp] theorem setNode_cur (i : Fin 511) (n : Node) : (s.setNode i n).cur = s.cur := rfl
@[simp] theorem setResult_cur (a b c : Word) : (setResult a b c s).cur = s.cur := rfl
@[simp] theorem latch_cur (c : Instr) : (latch c s).cur = s.cur := rfl
@[simp] theorem resetHuff_cur : (resetHuff s).cur = none := rfl
@[simp] theorem endWalk_cur : (endWalk s).cur = s.root := rfl
@[simp] theorem walkTo_cur (d : Fin 511) : (walkTo d s).cur = some d := rfl

end Sys2Proof.Machine
end

