-- ==== Sys2Proof/Laws/Ops.lean ====
section
/-! SUPPORT. One lemma per shared operation, saying everything it can do. -/

namespace Sys2Proof.Machine

variable {s s' t : State}

/-! ### Tables over symbols -/

@[simp] theorem symGet_symPut_self {α : Type} (f : SymTable α) (b : Byte) (v : α) : symGet (symPut f b v) b = v := by
  simp [symGet, symPut]

theorem symGet_symPut_ne {α : Type} (f : SymTable α) {b c : Byte} (v : α) (h : c ≠ b) :
    symGet (symPut f b v) c = symGet f c := by
  have hn : b.toNat ≠ c.toNat := fun e => h (BitVec.eq_of_toNat_eq e.symm)
  simp [symGet, symPut, hn]

theorem symGet_symPut {α : Type} (f : SymTable α) (b c : Byte) (v : α) :
    symGet (symPut f b v) c = if c = b then v else symGet f c := by
  by_cases h : c = b
  · subst h; simp
  · simp [h, symGet_symPut_ne f v h]

@[simp] theorem symGet_replicate {α : Type} (b : Byte) (v : α) : symGet (Vector.replicate 256 v : SymTable α) b = v := by
  simp [symGet]

theorem symTable_ext {α : Type} {f g : SymTable α} (h : ∀ b, symGet f b = symGet g b) : f = g := by
  apply Vector.ext
  intro i hi
  have := h (BitVec.ofNat 8 i)
  simpa [symGet, Nat.mod_eq_of_lt hi] using this

theorem mem_allSymbols (b : Byte) : b ∈ allSymbols := by
  simp only [allSymbols, List.mem_map, List.mem_range]
  exact ⟨b.toNat, b.isLt, by simp⟩

/-! ### The arena -/

@[simp] theorem blankArena_get (i : Fin 511) : blankArena[i] = Node.blank := by
  simp [blankArena]

theorem setNode_get (i j : Fin 511) (n : Node) :
    (s.setNode i n).node[j] = if i = j then n else s.node[j] := by
  simp [State.setNode, Vector.getElem_set, Fin.ext_iff]

/-! ### FIFOs -/

theorem popIn_nil (h : s.inFifo = []) : popIn s = none := by simp [popIn, h]

theorem popIn_cons {k : Token} {rest : List Token} (h : s.inFifo = k :: rest) :
    popIn s = some (k, { s with inFifo := rest }) := by simp [popIn, h]

/-- Everything `popIn` can do. -/
theorem popIn_cases (s : State) :
    (s.inFifo = [] ∧ popIn s = none) ∨
    ∃ k rest, s.inFifo = k :: rest ∧ popIn s = some (k, { s with inFifo := rest }) := by
  cases h : s.inFifo with
  | nil => exact .inl ⟨rfl, popIn_nil h⟩
  | cons k rest => exact .inr ⟨k, rest, rfl, popIn_cons h⟩

theorem pushOut_full {b : Byte} (h : s.outDepth.toNat ≤ s.outFifo.length) : pushOut b s = none := by
  simp [pushOut, h]

theorem pushOut_room {b : Byte} (h : s.outFifo.length < s.outDepth.toNat) :
    pushOut b s = some { s with outFifo := s.outFifo ++ [b], outbytes := s.outbytes + 1 } := by
  simp [pushOut, h]

/-- Everything `pushOut` can do. -/
theorem pushOut_cases (b : Byte) (s : State) :
    (s.outDepth.toNat ≤ s.outFifo.length ∧ pushOut b s = none) ∨
    (s.outFifo.length < s.outDepth.toNat ∧
      pushOut b s = some { s with outFifo := s.outFifo ++ [b], outbytes := s.outbytes + 1 }) := by
  rcases Nat.lt_or_ge s.outFifo.length s.outDepth.toNat with h | h
  · exact .inr ⟨h, pushOut_room h⟩
  · exact .inl ⟨h, pushOut_full h⟩

/-! ### Commands -/

theorem runCommand_busy {c : Instr} {p : Bool} {a : State → State} {body : State → Result} (h : s.busy = true) :
    runCommand c p a body s = body s := by simp [runCommand, h]

theorem runCommand_idle {c : Instr} {p : Bool} {a : State → State} {body : State → Result} (h : s.busy = false) :
    runCommand c p a body s = .next (accept c p a s) := by simp [runCommand, h]

theorem singleStep_start {body : State → Result} (h : s.point = .accepted) : singleStep body s = body s := by
  simp [singleStep, h]

theorem singleStep_stray {body : State → Result} (h : s.point ≠ .accepted) :
    singleStep body s = .fault .strayPoint := by simp [singleStep, h]

theorem accept_true {c : Instr} {a : State → State} : accept c true a s = a (latch c { s with done := false }) := by
  simp [accept]

theorem accept_false {c : Instr} {a : State → State} :
    accept c false a s = raiseError .sequence { s with done := false } := by simp [accept]

theorem HuffError.toCode_ne_zero (e : HuffError) : e.toCode ≠ 0 := by cases e <;> decide

theorem HuffError.toCode_le (e : HuffError) : e.toCode.toNat ≤ 6 := by cases e <;> decide

/-! ### Node references -/

theorem refOfBits_none : refOfBits Config.noneIdx = none := by decide

theorem refOfBits_some {k : Idx} {i : Fin 511} (h : k.toNat = i.val) : refOfBits k = some i := by
  have : k.toNat < 511 := by omega
  simp [refOfBits, h]

theorem refBits_some (i : Fin 511) : (refBits (some i)).toNat = i.val := by
  simp [refBits]; omega

end Sys2Proof.Machine
end

