-- ==== Sys2Proof/Laws/PerInstr.lean ====
section
/-! SUPPORT. Statements for all commands, one lemma per constructor. -/

namespace Sys2Proof.Laws.WordFields

/-- The fields of a command's word: RSV is 0, OP is its opcode and IDX its index (30_encoding.md R141). -/
def Statement (c : Instr) : Prop :=
  rsvField (encodeWord c) = 0 ∧ opField (encodeWord c) = opcodeOf c ∧ idxField (encodeWord c) = indexOf c

/-- The three fields of a word made by `commandWord` are the ones it was made from. -/
theorem commandWord_fields (idx : Idx) (op : Byte) :
    rsvField (commandWord idx op) = 0 ∧ opField (commandWord idx op) = op ∧
    idxField (commandWord idx op) = idx := by
  have hop := op.isLt
  have hidx := idx.isLt
  refine ⟨?_, ?_, ?_⟩ <;> apply BitVec.eq_of_toNat_eq <;>
    simp only [rsvField, opField, idxField, commandWord, BitVec.extractLsb'_toNat, BitVec.toNat_append,
      Nat.shiftRight_eq_div_pow, Nat.shiftLeft_eq, BitVec.toNat_ofNat, Nat.zero_mod, Nat.zero_mul, Nat.zero_or,
      BitVec.ofNat_eq_ofNat] <;>
    rw [← Nat.shiftLeft_eq, ← Nat.shiftLeft_add_eq_or_of_lt hop, Nat.shiftLeft_eq] <;> omega

theorem nop : Statement .nop := commandWord_fields _ _
theorem clrfreq : Statement .clrfreq := commandWord_fields _ _
theorem count : Statement .count := commandWord_fields _ _
theorem wrfreq (s : Byte) : Statement (.wrfreq s) := commandWord_fields _ _
theorem rdfreq (s : Byte) : Statement (.rdfreq s) := commandWord_fields _ _
theorem build : Statement .build := commandWord_fields _ _
theorem rdnode (i : Idx) : Statement (.rdnode i) := commandWord_fields _ _
theorem gencode : Statement .gencode := commandWord_fields _ _
theorem rdcode (s : Byte) : Statement (.rdcode s) := commandWord_fields _ _
theorem emithdr : Statement .emithdr := commandWord_fields _ _
theorem encode : Statement .encode := commandWord_fields _ _
theorem decode : Statement .decode := commandWord_fields _ _

end Sys2Proof.Laws.WordFields
end

