-- ==== Sys2Proof/Laws/Step.lean ====
section
/-! SUPPORT. What a step can do, said once: the inversion lemmas of the engine's turn, the host's accesses
and the step. -/

namespace Sys2Proof.Machine

variable {s t : State}

theorem step_nil (h : s.sched = []) : step s = engineTurn s := by simp [step, h]

theorem step_cons {e : Event} {rest : List Event} (h : s.sched = e :: rest) :
    step s = runEvent e { s with sched := rest } := by simp [step, h]

/-- The engine's turn: an idle engine passes, a running one does a micro-step of its latched command. -/
theorem engineTurn_cases (h : engineTurn s = .next t) :
    (s.busy = false ∧ t = s) ∨ ∃ c, Runs c s ∧ exec c s = .next t := by
  unfold engineTurn at h
  by_cases hb : s.busy = true
  · rw [if_pos hb] at h
    cases hd : decodeWord (latchedWord s) with
    | error e => rw [hd] at h; cases h
    | ok c => rw [hd] at h; exact .inr ⟨c, ⟨hb, hd⟩, h⟩
  · rw [if_neg hb] at h
    exact .inl ⟨by simpa using hb, by cases h; rfl⟩

/-- What a plain register write can lead to (45_host_interface.md R373), the CMD write apart. -/
def PlainWrite (s t : State) : Prop :=
  t = s ∨ (∃ v, t = ctrlWrite v s) ∨ (∃ v, t = statusClear v s) ∨ (∃ v, t = { s with arg := v }) ∨
  (∃ v, t = dinWrite v s) ∨ t = { s with outbytes := 0 }

/-- What a CMD write can lead to (R380). -/
theorem cmdWrite_cases {w : Word} (h : cmdWrite w s = .next t) :
    t = { s with cmdrej := true } ∨
    (s.busy = false ∧ s.err = false ∧
      (t = raiseError .illegalCmd { s with done := false } ∨ ∃ c, decodeWord w = .ok c ∧ exec c s = .next t)) := by
  unfold cmdWrite at h
  by_cases hb : (s.busy || s.err) = true
  · rw [if_pos hb] at h
    cases h
    exact .inl rfl
  · rw [if_neg hb] at h
    obtain ⟨h1, h2⟩ : s.busy = false ∧ s.err = false := by simpa using hb
    cases hd : decodeWord w with
    | error e => rw [hd] at h; cases h; exact .inr ⟨h1, h2, .inl rfl⟩
    | ok c => rw [hd] at h; exact .inr ⟨h1, h2, .inr ⟨c, rfl, h⟩⟩

theorem hostWrite_cases {off : BitVec 12} {v : Word} (h : hostWrite off v s = .next t) :
    PlainWrite s t ∨ cmdWrite v s = .next t := by
  unfold hostWrite at h
  cases hr : regAt off with
  | none => rw [hr] at h; cases h; exact .inl (.inl rfl)
  | some r =>
    rw [hr] at h
    cases r <;> simp only [regWrite] at h <;>
      first
        | exact .inr h
        | (cases h
           first
             | exact .inl (.inl rfl)
             | exact .inl (.inr (.inl ⟨v, rfl⟩))
             | exact .inl (.inr (.inr (.inl ⟨v, rfl⟩)))
             | exact .inl (.inr (.inr (.inr (.inl ⟨v, rfl⟩))))
             | exact .inl (.inr (.inr (.inr (.inr (.inl ⟨v, rfl⟩)))))
             | exact .inl (.inr (.inr (.inr (.inr (.inr rfl))))))

/-- What one event can lead to. -/
theorem runEvent_cases {e : Event} (h : runEvent e s = .next t) :
    (∃ off, t = hostRead off s) ∨ PlainWrite s t ∨ (∃ w, cmdWrite w s = .next t) ∨
    engineTurn s = .next t ∨ t = resetHuff s := by
  have aligned {width : Nat} {off : BitVec 12} {r : Result} (h : aligned32 width off r = .next t) : r = .next t := by
    unfold aligned32 at h
    split at h
    · cases h
    · split at h
      · cases h
      · exact h
  cases e with
  | rd width off =>
    have h' : (.next (hostRead off s) : Result) = .next t := aligned h
    cases h'
    exact .inl ⟨off, rfl⟩
  | wr width off v =>
    rcases hostWrite_cases (aligned h) with hp | hc
    · exact .inr (.inl hp)
    · exact .inr (.inr (.inl ⟨v, hc⟩))
  | fetch off => cases h
  | engine => exact .inr (.inr (.inr (.inl h)))
  | hardReset =>
    simp only [runEvent] at h
    cases h
    exact .inr (.inr (.inr (.inr rfl)))

/-- Everything a step can do: the schedule is shortened or was empty, and then the engine passes, the engine
runs a micro-step, the host reads, writes or presents a command, or HUFF is reset. -/
theorem step_cases (h : step s = .next t) :
    ∃ s0, (s0 = s ∨ ∃ rest, s0 = { s with sched := rest }) ∧
      ((s0.busy = false ∧ t = s0) ∨ (∃ c, Runs c s0 ∧ exec c s0 = .next t) ∨
       (∃ off, t = hostRead off s0) ∨ PlainWrite s0 t ∨ t = resetHuff s0 ∨ t = { s0 with cmdrej := true } ∨
       (s0.busy = false ∧ s0.err = false ∧ t = raiseError .illegalCmd { s0 with done := false }) ∨
       ∃ w c, s0.busy = false ∧ s0.err = false ∧ decodeWord w = .ok c ∧ exec c s0 = .next t) := by
  have turn {s0 : State} (h : engineTurn s0 = .next t) :
      (s0.busy = false ∧ t = s0) ∨ ∃ c, Runs c s0 ∧ exec c s0 = .next t := engineTurn_cases h
  cases hs : s.sched with
  | nil =>
    rw [step_nil hs] at h
    refine ⟨s, .inl rfl, ?_⟩
    rcases turn h with h | h
    · exact .inl h
    · exact .inr (.inl h)
  | cons e rest =>
    rw [step_cons hs] at h
    refine ⟨_, .inr ⟨rest, rfl⟩, ?_⟩
    rcases runEvent_cases h with h | h | ⟨w, h⟩ | h | h
    · exact .inr (.inr (.inl h))
    · exact .inr (.inr (.inr (.inl h)))
    · rcases cmdWrite_cases h with h | ⟨h1, h2, h | ⟨c, h3, h4⟩⟩
      · exact .inr (.inr (.inr (.inr (.inr (.inl h)))))
      · exact .inr (.inr (.inr (.inr (.inr (.inr (.inl ⟨h1, h2, h⟩))))))
      · exact .inr (.inr (.inr (.inr (.inr (.inr (.inr ⟨w, c, h1, h2, h3, h4⟩))))))
    · rcases turn h with h | h
      · exact .inl h
      · exact .inr (.inl h)
    · exact .inr (.inr (.inr (.inr (.inl h))))

end Sys2Proof.Machine
end

