-- ==== Sys2Proof/Laws/Walk.lean ====
section
/-! SUPPORT. What the commands' larger pieces can do: acceptance and bodies inverted, DECODE's two bit loops
framed, and whole trees inverted. -/

namespace Sys2Proof.Machine

variable {s t : State}

/-! ### Acceptance and bodies -/

/-- Everything `runCommand` can go on with. -/
theorem runCommand_cases {c : Instr} {p : Bool} {a : State → State} {body : State → Result}
    (h : runCommand c p a body s = .next t) :
    (s.busy = false ∧ p = true ∧ t = a (latch c { s with done := false })) ∨
    (s.busy = false ∧ p = false ∧ t = raiseError .sequence { s with done := false }) ∨
    (s.busy = true ∧ body s = .next t) := by
  cases hb : s.busy with
  | true => rw [runCommand_busy hb] at h; exact .inr (.inr ⟨rfl, h⟩)
  | false =>
    rw [runCommand_idle hb] at h
    cases p with
    | true => rw [accept_true] at h; exact .inl ⟨rfl, rfl, (Host.Outcome.next.inj h).symm⟩
    | false => rw [accept_false] at h; exact .inr (.inl ⟨rfl, rfl, (Host.Outcome.next.inj h).symm⟩)

/-- Everything `singleStep` can go on with. -/
theorem singleStep_cases {body : State → Result} (h : singleStep body s = .next t) :
    s.point = .accepted ∧ body s = .next t := by
  unfold singleStep at h
  split at h
  · next hp => exact ⟨hp, h⟩
  · cases h

/-! ### DECODE's walk -/

/-- The walk changes DBITS, where it stands, and the program point only. -/
theorem walkBits_frame (n : Nat) (h : walkBits n s = .next t) :
    ∃ (d : BitVec 4) (w : NodeRef) (p : Point), (p = .decTok ∨ p = .decPush) ∧
      t = { s with dbits := d, walk := w, point := p } := by
  induction n generalizing s with
  | zero => cases h; exact ⟨0, s.walk, .decTok, .inl rfl, rfl⟩
  | succ k ih =>
    unfold walkBits at h
    split at h
    · split at h
      · cases h
      · next c hc =>
        split at h
        · cases h
        · next d hd =>
          split at h
          · cases h; exact ⟨_, some d, .decPush, .inr rfl, rfl⟩
          · obtain ⟨d', c', p', hp, rfl⟩ := ih h
            exact ⟨d', c', p', hp, rfl⟩
    · cases h; exact ⟨0, s.walk, .decTok, .inl rfl, rfl⟩

/-! ### DECODE's header bits -/

/-- Attaching a record to its parent changes NODE and PSTACK only. -/
theorem attach_frame (i : Fin 511) (s : State) :
    ∃ n ps, attach i s = { s with node := n, pstack := ps } := by
  unfold attach
  split
  · exact ⟨s.node, s.pstack, rfl⟩
  · split
    · exact ⟨_, s.pstack, rfl⟩
    · exact ⟨_, _, rfl⟩

/-- The state of a header step. -/
def HeaderStep.state (h : HeaderStep) : State :=
  match h with
  | .more _ s => s
  | .complete s => s
  | .malformed s => s

/-- One header bit changes NODE, PSTACK, NEXT, SEEN, ROOT and DBITS only. -/
theorem headerBit_frame (b : Bool) (pos : TreePos) (s : State) :
    ∃ n ps nx sn r d, (headerBit b pos s).state =
      { s with node := n, pstack := ps, next := nx, seen := sn, root := r, dbits := d } := by
  have stay : ∃ n ps nx sn r d, s =
      { s with node := n, pstack := ps, next := nx, seen := sn, root := r, dbits := d } :=
    ⟨s.node, s.pstack, s.next, s.seen, s.root, s.dbits, rfl⟩
  cases pos with
  | tag =>
    simp only [headerBit, tagBit]
    split
    · next hn =>
      cases b with
      | true => exact ⟨s.node, s.pstack, _, s.seen, s.root, s.dbits, rfl⟩
      | false =>
        obtain ⟨n, ps, e⟩ := attach_frame ⟨s.next.val, hn⟩
          (State.setNode ⟨s.next.val, hn⟩ (innerNode none none 0) { s with next := s.next + 1 })
        simp only [HeaderStep.state, Bool.false_eq_true, if_false, e]
        exact ⟨_, _, _, s.seen, s.root, s.dbits, rfl⟩
    · exact stay
  | sym i k acc =>
    simp only [headerBit]
    split
    · unfold leafRead
      split
      · exact stay
      · obtain ⟨n, ps, e⟩ := attach_frame i
          (State.setNode i (leafNode (acc <<< 1 ||| (BitVec.ofBool b).setWidth 8) 0)
            { s with seen := symPut s.seen (acc <<< 1 ||| (BitVec.ofBool b).setWidth 8) true })
        simp only [e]
        split
        · exact ⟨_, _, s.next, _, some 0, 0, rfl⟩
        · exact ⟨_, _, s.next, _, s.root, s.dbits, rfl⟩
    · exact stay

/-- The header bits of a token change the fields named here only, and an error leaves the engine idle. -/
theorem headerBits_frame (n : Nat) (pos : TreePos) (s : State) :
    ∃ nd ps nx sn r d p tv ds w er ec bz, headerBits n pos s =
      { s with
        node := nd, pstack := ps, next := nx, seen := sn, root := r, dbits := d, point := p, treeValid := tv,
        dstate := ds, walk := w, err := er, errcode := ec, busy := bz } ∧
      (er = s.err ∧ bz = s.busy ∨ er = true ∧ bz = false) := by
  induction n generalizing pos s with
  | zero => exact ⟨_, _, _, _, _, _, _, _, _, _, _, _, _, rfl, .inl ⟨rfl, rfl⟩⟩
  | succ k ih =>
    obtain ⟨n, ps, nx, sn, r, d, e⟩ :=
      headerBit_frame (s.dbyte.getLsbD k) pos { s with dbits := BitVec.ofNat 4 k }
    unfold headerBits
    cases hh : headerBit (s.dbyte.getLsbD k) pos { s with dbits := BitVec.ofNat 4 k } with
    | more p' s' =>
      rw [hh] at e
      simp only [HeaderStep.state] at e
      subst e
      obtain ⟨_, _, _, _, _, _, _, _, _, _, _, _, _, e2, h2⟩ := ih p' _
      exact ⟨_, _, _, _, _, _, _, _, _, _, _, _, _, e2, h2⟩
    | complete s' =>
      rw [hh] at e
      simp only [HeaderStep.state] at e
      subst e
      simp only [startStreaming, goto]
      split
      · exact ⟨_, _, _, _, _, _, _, _, _, _, _, _, _, rfl, .inl ⟨rfl, rfl⟩⟩
      · split <;> exact ⟨_, _, _, _, _, _, _, _, _, _, _, _, _, rfl, .inl ⟨rfl, rfl⟩⟩
    | malformed s' =>
      rw [hh] at e
      simp only [HeaderStep.state] at e
      subst e
      exact ⟨_, _, _, _, _, _, _, _, _, _, _, _, _, rfl, .inr ⟨rfl, rfl⟩⟩

/-! ### Whole trees -/

/-- Everything a whole tree can be: a used leaf, or a used internal record over two whole trees. -/
theorem wholeTree_cases {a : Arena} {i : Fin 511} {tr : Tree} (h : wholeTree a i = some tr) :
    (a[i]).used = true ∧
    ((a[i]).leaf = true ∧ tr = .leaf (a[i]).sym ∨
     (a[i]).leaf = false ∧ ∃ l r tl tr', (a[i]).left = some l ∧ (a[i]).right = some r ∧
       wholeTree a l = some tl ∧ wholeTree a r = some tr' ∧ tr = .node tl tr') := by
  obtain ⟨hu, h | ⟨hl, l, r, tl, tr', el, er, h1, h2, e⟩⟩ := treeAt_cases (k := 510) h
  · exact ⟨hu, .inl h⟩
  · exact ⟨hu, .inr ⟨hl, l, r, tl, tr', el, er, treeAt_mono (by decide) h1, treeAt_mono (by decide) h2, e⟩⟩

/-! ### Where a walk goes -/

/-- A record that heads a tree `node tl tr` has the children that head `tl` and `tr`. -/
theorem wholeTree_node {a : Arena} {c : Fin 511} {tl tr : Tree} (h : wholeTree a c = some (.node tl tr)) (b : Bool) :
    ∃ d, childOf a c b = some d ∧ wholeTree a d = some (if b then tr else tl) := by
  obtain ⟨-, ⟨-, e⟩ | ⟨-, l, r, tl', tr', el, er, h1, h2, e⟩⟩ := wholeTree_cases h
  · cases e
  · cases e
    cases b with
    | false => exact ⟨l, el, h1⟩
    | true => exact ⟨r, er, h2⟩

/-- A record heads a leaf exactly when it is one. -/
theorem wholeTree_leaf {a : Arena} {c : Fin 511} {t : Tree} (h : wholeTree a c = some t) :
    ((a[c]).leaf = true ∧ t = .leaf (a[c]).sym) ∨ ((a[c]).leaf = false ∧ ∃ l r, t = .node l r) := by
  obtain ⟨-, h | ⟨hl, -, -, tl, tr, -, -, -, -, e⟩⟩ := wholeTree_cases h
  · exact .inl h
  · exact .inr ⟨hl, tl, tr, e⟩

/-- One walk step from a record that heads `node tl tr` (44_decoder.md R340). -/
theorem walkBits_succ {k : Nat} {c : Fin 511} {tl tr : Tree} (hc : s.cur = some c)
    (ht : wholeTree s.node c = some (.node tl tr)) (he : s.emitted < s.dcount) :
    ∃ d, wholeTree s.node d = some (if s.dbyte.getLsbD k then tr else tl) ∧
      walkBits (k + 1) s =
        if (s.node[d]).leaf then .next (goto .decPush (walkTo d { s with dbits := BitVec.ofNat 4 k }))
        else walkBits k (walkTo d { s with dbits := BitVec.ofNat 4 k }) := by
  obtain ⟨d, hd, hw⟩ := wholeTree_node ht (s.dbyte.getLsbD k)
  refine ⟨d, hw, ?_⟩
  rw [walkBits, if_pos he]
  simp only [hc, hd]

end Sys2Proof.Machine
end

