-- ==== Sys2Proof/Tests/Slice0.lean ====
section
/-! SUPPORT. Tests: the encoding, one step of each command with the results of spec/95_test_vectors.md, and a
witness for the hypotheses of each statement. -/

namespace Sys2Proof.Tests

/- One theorem at a time: the kernel evaluations below, all waiting together, would take one thread each. -/
set_option Elab.async false

open Sys2Proof.Machine

/-! ### States -/

/-- A state other than the reset state. -/
def fresh : State := { State.reset with arg := 7 }

/-- `s` with command `c` running at point `p`. -/
def running (c : Instr) (p : Point) (s : State) : State :=
  { s with busy := true, point := p, lop := opcodeOf c, lidx := indexOf c }

/-- `s` with exactly the given non-zero frequencies. -/
def withFreq (l : List (Byte × Word)) (s : State) : State :=
  { s with
    freq := l.foldl (fun f x => symPut f x.1 x.2) (Vector.replicate 256 0)
    total := (l.map Prod.snd).sum
    nsym := BitVec.ofNat 9 l.length }

/-- The arena of "ab": NODE[256] = (LEFT a, RIGHT b), each weight 1 (41_tree_builder.md R234). -/
def abArena : Arena :=
  ((blankArena.set 97 (leafNode 0x61 1)).set 98 (leafNode 0x62 1)).set 256 (innerNode (some 97) (some 98) 2)

/-- "ab" counted and built. -/
def ab : State :=
  { withFreq [(0x61, 1), (0x62, 1)] fresh with
    node := abArena, root := some 256, treeValid := true }

/-- "ab" coded: a = "0", b = "1" (T43.10). -/
def abCoded : State :=
  { ab with
    code := symPut (symPut blankCodes 0x61 { valid := true, len := 1, bits := 0 }) 0x62
      { valid := true, len := 1, bits := 1 }
    codesValid := true }

/-- DECODE at point `p` with the tree of T44.17 read: NODE 0 = (1, 2), 1 = c, 2 = (3, 4), 3 = a, 4 = b. -/
def decoding (p : Point) : State :=
  { running .decode p fresh with
    node := ((((blankArena.set 0 (innerNode (some 1) (some 2) 0)).set 1 (leafNode 0x63 0)).set 2
      (innerNode (some 3) (some 4) 0)).set 3 (leafNode 0x61 0)).set 4 (leafNode 0x62 0)
    root := some 0
    dcount := 9
    treeValid := true
    treeDec := true
    dstate := .streamingBits }

/-- The tree of `decoding`. -/
def cabTree : Tree := .node (.leaf 0x63) (.node (.leaf 0x61) (.leaf 0x62))

/-- The output FIFO filled to its depth of 16. -/
def full (s : State) : State := { s with outFifo := List.replicate 16 0 }

/-! ### Well-formed commands -/

theorem test_rdnode_none_is_ill_formed : ¬ (Instr.rdnode 0x1FF).WellFormed := by decide

theorem test_rdnode_510_is_well_formed : (Instr.rdnode 510).WellFormed := by decide

/-! ### Decoding: words written from the tables of 30_encoding.md (R141, R142), RSV IDX OP -/

theorem test_decode_nop : decodeWord 0b000000000000000_000000000_00000000 = .ok .nop := by decide

theorem test_decode_clrfreq : decodeWord 0b000000000000000_000000000_00000001 = .ok .clrfreq := by decide

theorem test_decode_count : decodeWord 0b000000000000000_000000000_00000010 = .ok .count := by decide

theorem test_decode_wrfreq : decodeWord 0b000000000000000_001100010_00000011 = .ok (.wrfreq 0x62) := by decide

theorem test_decode_rdfreq : decodeWord 0b000000000000000_011111111_00000100 = .ok (.rdfreq 0xFF) := by decide

theorem test_decode_build : decodeWord 0b000000000000000_000000000_00010000 = .ok .build := by decide

theorem test_decode_rdnode : decodeWord 0b000000000000000_111111110_00010001 = .ok (.rdnode 510) := by decide

theorem test_decode_gencode : decodeWord 0b000000000000000_000000000_00100000 = .ok .gencode := by decide

theorem test_decode_rdcode : decodeWord 0b000000000000000_001100001_00100001 = .ok (.rdcode 0x61) := by decide

theorem test_decode_emithdr : decodeWord 0b000000000000000_000000000_00110000 = .ok .emithdr := by decide

theorem test_decode_encode : decodeWord 0b000000000000000_000000000_00110001 = .ok .encode := by decide

theorem test_decode_decode : decodeWord 0b000000000000000_000000000_01000000 = .ok .decode := by decide

/-- T40.11, T40.12, T40.13, T41.9, T45.14. -/
theorem test_decode_rejects :
    decodeWord 0x00000100 = .error .indexRange ∧ decodeWord 0x00010003 = .error .indexRange ∧
    decodeWord 0x00020003 = .error .reservedBits ∧ decodeWord 0x0001FF11 = .error .indexRange ∧
    decodeWord 0x000000FF = .error .reservedOpcode := by decide

theorem test_table_word : decodeTableWord 32 0x0001FE11 = some (.rdnode 510) := by decide

/-! ### One step of each command -/

/-- T40.1. -/
theorem test_nop : (nextOf (exec .nop (running .nop .accepted fresh))).map statusWord = some 0x00000002 := by decide

/-- T40.6. -/
theorem test_clrfreq :
    (nextOf (exec .clrfreq (running .clrfreq .accepted ab))).map
      (fun t => (symGet t.freq 0x61, t.total, t.nsym, t.root, statusWord t)) =
    some (0, 0, 0, some 256, 0x00000002) := by decide +kernel

/-- T40.4: a second 'b' in the table of "aab". -/
theorem test_count_adds :
    (nextOf (exec .count { running .count .countPop (withFreq [(0x61, 2), (0x62, 1)] fresh) with
        inFifo := [.data 0x62] })).map (fun t => (t.total, t.nsym, symGet t.freq 0x62, t.inFifo)) =
    some (4, 2, 2, []) := by decide +kernel

/-- T40.9. -/
theorem test_count_overflow :
    (nextOf (exec .count { running .count .countPop (withFreq [(0x61, 0xFFFFFFFF)] fresh) with
        inFifo := [.data 0x62] })).map (fun t => (statusWord t, t.inFifo, symGet t.freq 0x62)) =
    some (0x00000044, [], 0) := by decide +kernel

/-- T40.5: the last 'b' entry is set to 0. -/
theorem test_wrfreq_zero :
    (nextOf (exec (.wrfreq 0x62) (running (.wrfreq 0x62) .accepted (withFreq [(0x61, 2), (0x62, 2)] fresh)))).map
      (fun t => (symGet t.freq 0x62, t.total, t.nsym)) = some (0, 2, 1) := by decide +kernel

/-- T40.8. -/
theorem test_wrfreq_overflow :
    (nextOf (exec (.wrfreq 0x62) { running (.wrfreq 0x62) .accepted (withFreq [(0x61, 0xFFFFFFFF)] fresh) with
        larg := 1 })).map (fun t => (statusWord t, t.total, t.nsym, symGet t.freq 0x62)) =
    some (0x00000044, 0xFFFFFFFF, 1, 0) := by decide +kernel

/-- T40.3. -/
theorem test_rdfreq :
    (nextOf (exec (.rdfreq 0x61) (running (.rdfreq 0x61) .accepted (withFreq [(0x61, 2), (0x62, 1)] fresh)))).map
      (fun t => (t.res0, t.res1, t.res2)) = some (2, 0, 0) := by decide +kernel

/-- T41.1. -/
theorem test_build :
    (nextOf (exec .build (running .build .accepted (withFreq [(0x61, 2), (0x62, 3), (0x63, 4)] fresh)))).map
      (fun t => (t.root, nodeWord t.node[256], (t.node[256]).weight, nodeWord t.node[257], (t.node[257]).weight)) =
    some (some 257, 0x80C46100, 5, 0x82006300, 9) := by decide +kernel

/-- T41.5: the degenerate table. -/
theorem test_build_one_symbol :
    (nextOf (exec .build (running .build .accepted (withFreq [(0x61, 4)] fresh)))).map
      (fun t => (t.root, statusWord t)) = some (some 0x61, 0x00000502) := by decide +kernel

/-- T43.6's "ab": RDNODE 256 as in T41 (LEFT 0x61 in 16:8, RIGHT 0x62 in 25:17). -/
theorem test_rdnode :
    (nextOf (exec (.rdnode 256) (running (.rdnode 256) .accepted ab))).map (fun t => (t.res0, t.res1, t.res2)) =
    some (0x80C46100, 2, 0) := by decide +kernel

/-- T41.7, T41.8: a blank record. -/
theorem test_rdnode_blank :
    (nextOf (exec (.rdnode 510) (running (.rdnode 510) .accepted ab))).map (fun t => (t.res0, t.res1, t.res2)) =
    some (0x03FFFF00, 0, 0) := by decide +kernel

/-- T43.10's codes: a = "0", b = "1". -/
theorem test_gencode :
    (nextOf (exec .gencode (running .gencode .accepted ab))).map
      (fun t => (symGet t.code 0x61, symGet t.code 0x62, (symGet t.code 0x7A).valid, statusWord t)) =
    some ({ valid := true, len := 1, bits := 0 }, { valid := true, len := 1, bits := 1 }, false, 0x00000302) := by
  decide +kernel

/-- T42.7. -/
theorem test_gencode_sequence : (nextOf (exec .gencode fresh)).map statusWord = some 0x00000024 := by decide

/-- T42.1's form for "1": RES0 = 0x80000001, RES1 = 1 (T42.4). -/
theorem test_rdcode :
    (nextOf (exec (.rdcode 0x62) (running (.rdcode 0x62) .accepted abCoded))).map
      (fun t => (t.res0, t.res1, t.res2)) = some (0x80000001, 1, 0) := by decide +kernel

/-- T43.6. -/
theorem test_emithdr :
    (nextOf (exec .emithdr (running .emithdr .accepted ab))).map State.point =
    some (.hdrPush 0x00 [0x00, 0x00, 0x02, 0x58, 0x6C, 0x40]) := by decide +kernel

/-- T43.15: a full output FIFO makes the engine wait. -/
theorem test_emithdr_waits :
    (nextOf (exec .emithdr (full (running .emithdr (.hdrPush 0 [0x40]) ab)))).map
      (fun t => (t.busy, t.outFifo.length, t.point)) = some (true, 16, .hdrPush 0 [0x40]) := by decide

/-- T43.6: "01" padded is 0x40. -/
theorem test_encode_flush :
    (nextOf (exec .encode { running .encode .encFlush abCoded with acc := [false, true] })).map
      (fun t => (t.outFifo, t.acc, t.done)) = some ([0x40], [], true) := by decide

/-- T43.10: 'c' has no code. -/
theorem test_encode_unknown_symbol :
    (nextOf (exec .encode { running .encode .encPop abCoded with
        inFifo := [.data 0x63, .eos], acc := [false, true], emitted := 2 })).map
      (fun t => (statusWord t, t.inFifo, t.outFifo, t.emitted)) = some (0x00000334, [.eos], [], 2) := by decide +kernel

/-- T44.12: EOS inside the count. -/
theorem test_decode_truncated_count :
    (nextOf (exec .decode { running .decode (.decCount 3 0) fresh with
        inFifo := [.eos], treeDec := true, dstate := .readingTree })).map statusWord = some 0x00050054 := by decide

/-- T44.4: data byte 00000001 walks first to c, with 7 bits left; after that push the walk starts again at ROOT
and comes to c on the first of them. -/
theorem test_decode_walk :
    (nextOf (exec .decode { decoding .decTok with inFifo := [.data 0x01] })).map
      (fun t => (t.point, t.cur, t.dbits)) = some (.decPush, some 1, 7) ∧
    (nextOf (exec .decode { decoding .decPush with walk := some 1, dbyte := 0x01, dbits := 7 })).map
      (fun t => (t.outFifo, t.point, t.cur, t.dbits)) = some ([0x63], .decPush, some 1, 6) := by decide +kernel

/-- T45.1 and T45.2: reads of ID and ROOT. -/
theorem test_reads :
    (nextOf (step { State.reset with sched := [.rd 32 0x00] })).map State.reads = some [(0x00, 0x48554646)] ∧
    (nextOf (step { State.reset with sched := [.rd 32 0x3C] })).map State.reads = some [(0x3C, 0x1FF)] := by decide

/-- T41.9: RDNODE 511 keeps the tree valid. -/
theorem test_illegal_word :
    (nextOf (step { ab with sched := [.wr 32 0x14 0x0001FF11] })).map statusWord = some 0x00000114 := by decide +kernel

/-- The first step after reset runs the presented command. -/
theorem test_fetch_word :
    (nextOf (step (State.reset.withFetchWord 32 0x10))).map (fun t => (t.busy, t.lop)) = some (true, 0x10) := by decide

/-! ### Witnesses: states and operands that meet the hypotheses of the statements, clause by clause -/

/-- A chain of `d` internal records 0 to `d - 1`, with leaf `k` left of record `k` and leaf `d` at the end: the
shape of T44.14. -/
def chainArena (d : Nat) : Arena :=
  Vector.ofFn fun i : Fin 511 =>
    if i.val < d then innerNode (some (Fin.ofNat 511 (256 + i.val))) (some (Fin.ofNat 511 (i.val + 1))) 0
    else leafNode (BitVec.ofNat 8 i.val) 0

/-- The tree of `chainArena`, whose first leaf is `k` and which has `d` internal nodes. -/
def chainTree (d k : Nat) : Tree :=
  match d with
  | 0 => .leaf (BitVec.ofNat 8 k)
  | n + 1 => .node (.leaf (BitVec.ofNat 8 k)) (chainTree n (k + 1))

theorem chain_inner {d k : Nat} {i : Fin 511} (hi : i.val = k) (h : k < d) :
    (chainArena d)[i] = innerNode (some (Fin.ofNat 511 (256 + k))) (some (Fin.ofNat 511 (k + 1))) 0 := by
  subst hi
  simp [chainArena, h]

theorem chain_leaf {d : Nat} {i : Fin 511} (h : d ≤ i.val) :
    (chainArena d)[i] = leafNode (BitVec.ofNat 8 i.val) 0 := by
  simp [chainArena, Nat.not_lt.mpr h]

theorem chain_leafTree {d k : Nat} (n : Nat) {i : Fin 511} (h : d ≤ i.val) (hk : BitVec.ofNat 8 i.val = BitVec.ofNat 8 k) :
    treeAt (n + 1) (chainArena d) i = some (.leaf (BitVec.ofNat 8 k)) := by
  have := treeAt_leaf (k := n) (a := chainArena d) (i := i) (by rw [chain_leaf h]; rfl) (by rw [chain_leaf h]; rfl)
  rw [this, chain_leaf h, ← hk]
  rfl

theorem chain_treeAt {d : Nat} (hd : d ≤ 65) (n k : Nat) (h : k + n = d) :
    treeAt (n + 1) (chainArena d) (Fin.ofNat 511 k) = some (chainTree n k) := by
  have val {m : Nat} (hm : m < 511) : (Fin.ofNat 511 m).val = m := Nat.mod_eq_of_lt hm
  induction n generalizing k with
  | zero => exact chain_leafTree 0 (by rw [val (by omega)]; omega) (by rw [val (by omega)])
  | succ n ih =>
    have e := chain_inner (d := d) (val (m := k) (by omega)) (by omega)
    refine treeAt_node (by rw [e]; rfl) (by rw [e]; rfl) (by rw [e]; rfl) (by rw [e]; rfl)
      (chain_leafTree n (by rw [val (by omega)]; omega) ?_) (ih (k + 1) (by omega))
    rw [val (by omega)]
    apply BitVec.eq_of_toNat_eq
    simp

theorem chain_tree {d : Nat} (hd : d ≤ 65) : wholeTree (chainArena d) 0 = some (chainTree d 0) :=
  treeAt_mono (k := d + 1) (by show d + 1 ≤ 511; omega) (chain_treeAt hd d 0 (by omega))

/-- `fresh` with the chain of `d` internal nodes as its tree and command `c` just accepted. -/
def chained (c : Instr) (d : Nat) : State :=
  { running c .accepted fresh with node := chainArena d, root := some 0, treeValid := true }

/-- The machine goes on to a state with the given property. -/
theorem goesOn_with {r : Result} (p : State → Bool) (h : (nextOf r).map p = some true) :
    ∃ t, r = .next t ∧ p t = true := by
  cases r with
  | next t => exact ⟨t, rfl, by simpa [nextOf] using h⟩
  | fault f => simp [nextOf] at h
  | refused f => simp [nextOf] at h

theorem goesOn {r : Result} (h : (nextOf r).isSome = true) : ∃ t, r = .next t := by
  cases r with
  | next t => exact ⟨t, rfl⟩
  | fault f => simp [nextOf] at h
  | refused f => simp [nextOf] at h

theorem not_command {w : Word} (h : (decodeWord w).toOption = none) (c : Instr) : decodeWord w ≠ .ok c := by
  intro hc
  rw [hc] at h
  cases h

theorem witness_DecodeOfEncodeIsTheCommand :
    (Instr.rdnode 510).WellFormed ∧ (Instr.rdcode 255).WellFormed ∧ Instr.decode.WellFormed := by decide

theorem witness_EncodeOfDecodeIsTheWord : decodeWord 0x0001FE11 = .ok (.rdnode 510) := by decide

theorem witness_CmdWriteStepRunsTheDecodedCommand :
    ({ ab with sched := [.wr 32 0x14 0x20, .engine] } : State).sched = .wr 32 0x14 0x20 :: [.engine] ∧
    ab.busy = false ∧ ab.err = false ∧ decodeWord 0x20 = .ok .gencode := by decide

theorem witness_EngineTurnRunsTheLatchedCommand :
    Runs .gencode (running .gencode .accepted ab) ∧ (running .gencode .accepted ab).sched = [] ∧
    Runs .gencode { running .gencode .accepted ab with sched := [.engine, .fetch 0] } := by decide

theorem witness_CmdWriteWhileBusyOrErrOnlySetsCmdrej :
    (running .count .countPop fresh).busy = true ∧ (raiseError .sequence fresh).err = true := by decide

theorem witness_IllegalWordRaisesIllegalCmd :
    ab.busy = false ∧ ab.err = false ∧ (∀ c, decodeWord 0x000000FF ≠ .ok c) ∧
    (∀ c, decodeWord 0x0001FF11 ≠ .ok c) :=
  ⟨rfl, rfl, not_command (by decide), not_command (by decide)⟩

theorem witness_FalsePreconditionRaisesSequence :
    fresh.busy = false ∧ fresh.treeValid = false ∧ fresh.codesValid = false ∧
    ({ ab with treeDec := true } : State).busy = false ∧ ({ ab with treeDec := true } : State).treeDec = true ∧
    ({ ab with treeDec := true } : State).treeValid = true := by decide

theorem witness_AcceptanceLatchesAndActs :
    abCoded.busy = false ∧ abCoded.treeValid = true ∧ abCoded.treeDec = false ∧ abCoded.codesValid = true ∧
    (510 : Idx) ≠ 0x1FF := by decide

theorem witness_NopAndClrfreqBodiesEndInOneStep :
    AtStart (running .nop .accepted ab) ∧ AtStart (running .clrfreq .accepted ab) := by decide

theorem witness_CountTakesOneToken :
    (running .count .accepted ab).busy = true ∧ (running .count .accepted ab).point = .accepted ∧
    (running .count .countPop ab).point = .countPop ∧ (running .count .countPop ab).inFifo = [] ∧
    ({ running .count .countPop ab with inFifo := [.eos] } : State).inFifo = .eos :: [] ∧
    ({ running .count .countPop ab with inFifo := [.data 0, .eos] } : State).inFifo = .data 0 :: [.eos] ∧
    (running .count .countPop (withFreq [(0x61, 0xFFFFFFFF)] fresh)).total = 0xFFFFFFFF ∧
    (running .count .countPop (withFreq [(0x61, 0xFFFFFFFE)] fresh)).total ≠ 0xFFFFFFFF := by decide

theorem witness_WrfreqReplacesOneEntry :
    AtStart { running (.wrfreq 0x62) .accepted ab with larg := 0xFFFFFFFE } ∧
    freqSum (symPut ab.freq 0x62 0) + (0xFFFFFFFE : Word).toNat ≤ 0xFFFFFFFF ∧
    0xFFFFFFFF < freqSum (symPut ab.freq 0x62 0) + (0xFFFFFFFF : Word).toNat := by decide +kernel

theorem witness_ReadBackCommandsWriteTheResultWords :
    AtStart (running (.rdnode 510) .accepted ab) ∧ (510 : Idx).toNat = (510 : Fin 511).val := by decide

theorem witness_BuildCompletesAndKeepsTheRest : AtStart (running .build .accepted ab) := by decide

theorem witness_SelectionTakesTheLeastKey : ([510, 0] : List (Fin 511)) ≠ [] := by decide

theorem witness_BuildAllocatesLeavesAndInnerRecords :
    (∃ t, exec .build (running .build .accepted ab) = .next t) ∧ AtStart (running .build .accepted ab) ∧
    freqCount ab.freq = 2 ∧ (0xFF : Byte).toNat = (255 : Fin 511).val ∧
    256 ≤ (256 : Fin 511).val ∧ (256 : Fin 511).val + 1 < 256 + 2 ∧ (256 : Fin 511).val + 2 = 256 + 2 ∧
    256 + 2 ≤ (257 : Fin 511).val + 1 ∧
    freqCount fresh.freq = 0 ∧ freqCount (withFreq [(0xFF, 1)] fresh).freq = 1 ∧
    symGet (withFreq [(0xFF, 1)] fresh).freq 0xFF ≠ 0 := ⟨⟨_, rfl⟩, by decide +kernel⟩

/-- "ab" counted, with no tree yet. -/
def abTable : State := withFreq [(0x61, 1), (0x62, 1)] fresh

/-- BUILD on "ab" makes the tree of `abArena`. -/
theorem ab_built :
    ∃ t, exec .build (running .build .accepted abTable) = .next t ∧
      decide ((t.node[256]).left = some 97 ∧ (t.node[256]).right = some 98 ∧ t.root = some 256 ∧
        treeAt 2 t.node 256 = some (.node (.leaf 0x61) (.leaf 0x62))) = true :=
  goesOn_with (fun t => decide ((t.node[256]).left = some 97 ∧ (t.node[256]).right = some 98 ∧ t.root = some 256 ∧
    treeAt 2 t.node 256 = some (.node (.leaf 0x61) (.leaf 0x62)))) (by decide +kernel)

theorem witness_BuildMergesTheTwoLeastAvailable :
    ∃ t, exec .build (running .build .accepted abTable) = .next t ∧ (t.node[256]).left = some 97 ∧
      (t.node[256]).right = some 98 := by
  obtain ⟨t, h, hd⟩ := ab_built
  exact ⟨t, h, (of_decide_eq_true hd).1, (of_decide_eq_true hd).2.1⟩

theorem witness_BuildMakesACompleteTreeOfThePresentSymbols :
    AtStart (running .build .accepted ab) ∧ symGet (running .build .accepted ab).freq 0x61 ≠ 0 := by decide +kernel

theorem ab_counts : ab.CountsInv := ⟨by decide +kernel, by decide +kernel⟩

theorem witness_BuiltWeightsAreSubtreeSums :
    AtStart (running .build .accepted abTable) ∧ (running .build .accepted abTable).CountsInv ∧
    ∃ t, exec .build (running .build .accepted abTable) = .next t ∧
      wholeTree t.node 256 = some (.node (.leaf 0x61) (.leaf 0x62)) ∧ t.root = some 256 := by
  obtain ⟨t, h, hd⟩ := ab_built
  obtain ⟨-, -, hr, ht⟩ := of_decide_eq_true hd
  exact ⟨⟨rfl, rfl⟩, ⟨ab_counts.total, ab_counts.nsym⟩, t, h, treeAt_mono (by decide) ht, hr⟩

/-- A leaf at the greatest depth a code can have. -/
theorem witness_GencodeWritesEveryPath :
    AtStart (chained .gencode 64) ∧ (chained .gencode 64).root = some 0 ∧
    wholeTree (chained .gencode 64).node 0 = some (chainTree 64 0) ∧ (leafSymbols (chainTree 64 0)).Nodup ∧
    (∀ x ∈ leafPaths (chainTree 64 0), x.2.length ≤ 64) ∧
    (0x40, List.replicate 64 true) ∈ leafPaths (chainTree 64 0) :=
  ⟨⟨rfl, rfl⟩, rfl, chain_tree (by decide), by decide +kernel⟩

/-- T42.9: a leaf one level deeper; and the empty tree. -/
theorem witness_GencodeFailsOnADeepLeafAndAcceptsTheEmptyTree :
    AtStart (chained .gencode 65) ∧ (chained .gencode 65).root = some 0 ∧
    wholeTree (chained .gencode 65).node 0 = some (chainTree 65 0) ∧
    (∃ x ∈ leafPaths (chainTree 65 0), 64 < x.2.length) ∧
    AtStart (running .gencode .accepted fresh) ∧ (running .gencode .accepted fresh).root = none :=
  ⟨⟨rfl, rfl⟩, rfl, chain_tree (by decide), by decide +kernel, ⟨rfl, rfl⟩, rfl⟩

theorem ab_tree : wholeTree ab.node 256 = some (.node (.leaf 0x61) (.leaf 0x62)) := by decide +kernel

theorem gencode_labels : State.LabelsInv (running .gencode .accepted ab) where
  gencode := fun _ => rfl
  valid := by
    intro _ r tree hr ht
    cases hr
    rw [show (running .gencode .accepted ab).node = ab.node from rfl, ab_tree] at ht
    cases ht
    decide
  header := fun _ _ h => by cases h

theorem witness_GeneratedCodesArePrefixFree :
    Runs .gencode (running .gencode .accepted ab) ∧ (running .gencode .accepted ab).LabelsInv ∧
    ∃ t, exec .gencode (running .gencode .accepted ab) = .next t ∧
      (t.codesValid && (symGet t.code 0x61).valid && (symGet t.code 0x62).valid) = true :=
  ⟨by decide, gencode_labels, goesOn_with (fun t => t.codesValid && (symGet t.code 0x61).valid &&
    (symGet t.code 0x62).valid) (by decide +kernel)⟩

theorem witness_EmithdrFormsCountAndTreeBits :
    AtStart (running .emithdr .accepted ab) ∧ (running .emithdr .accepted ab).root = some 256 ∧
    wholeTree (running .emithdr .accepted ab).node 256 = some (.node (.leaf 0x61) (.leaf 0x62)) ∧
    AtStart (running .emithdr .accepted fresh) ∧ (running .emithdr .accepted fresh).root = none := by decide +kernel

theorem witness_EmithdrPushesOneByte :
    (running .emithdr (.hdrPush 1 [2]) ab).busy = true ∧ (running .emithdr (.hdrPush 1 [2]) ab).point = .hdrPush 1 [2] ∧
    (full (running .emithdr (.hdrPush 1 []) ab)).outDepth.toNat ≤
      (full (running .emithdr (.hdrPush 1 []) ab)).outFifo.length ∧
    ({ running .emithdr (.hdrPush 1 []) ab with outFifo := List.replicate 15 0 } : State).outFifo.length <
      ab.outDepth.toNat := by decide

theorem witness_HeaderLengthFollowsTheLeafCount :
    AtStart (running .emithdr .accepted ab) ∧ (∃ t, exec .emithdr (running .emithdr .accepted ab) = .next t) ∧
    (∃ t, exec .emithdr (running .emithdr .accepted fresh) = .next t) :=
  ⟨by decide, goesOn (by decide +kernel), goesOn (by decide +kernel)⟩

theorem witness_EncodeTakesOneToken :
    (running .encode .accepted abCoded).busy = true ∧ (running .encode .accepted abCoded).point = .accepted ∧
    (running .encode .encPop abCoded).point = .encPop ∧ (running .encode .encPop abCoded).inFifo = [] ∧
    (running .encode .encPop abCoded).acc = [] ∧
    ({ running .encode .encPop abCoded with acc := [true] } : State).acc ≠ [] ∧
    ({ running .encode .encPop abCoded with inFifo := [.eos] } : State).inFifo = .eos :: [] ∧
    ({ running .encode .encPop abCoded with inFifo := [.data 0x61] } : State).inFifo = .data 0x61 :: [] ∧
    (symGet abCoded.code 0x61).valid = true ∧ (symGet abCoded.code 0x60).valid = false := by decide +kernel

theorem witness_EncodePushesWholeBytesFirstBitHighest :
    (running .encode .encPush abCoded).busy = true ∧ (running .encode .encPush abCoded).point = .encPush ∧
    (running .encode .encFlush abCoded).point = .encFlush ∧
    (full abCoded).outDepth.toNat ≤ (full abCoded).outFifo.length ∧
    8 ≤ (List.replicate 8 true).length ∧ 16 ≤ (List.replicate 16 true).length ∧
    1 ≤ (List.replicate 7 true).length ∧ (List.replicate 7 true).length ≤ 7 ∧
    abCoded.outFifo.length < abCoded.outDepth.toNat := by decide

theorem abCoded_codes : abCoded.CodesInv := by
  intro b
  show (symGet (symPut (symPut blankCodes 0x61 _) 0x62 _) b).Canonical
  rw [symGet_symPut, symGet_symPut]
  split
  · exact ⟨by decide, by decide, by decide⟩
  · split
    · exact ⟨by decide, by decide, by decide⟩
    · rw [show symGet blankCodes b = CodeEntry.blank from symGet_replicate b _]
      exact ⟨by decide, by decide, by decide⟩

/-- ACC at its longest, 71 bits, and at the end of a stream. -/
theorem witness_StepKeepsThePackerAccumulatorBounds :
    State.PackerInv { running .encode .encPush abCoded with acc := List.replicate 71 true } ∧
    (∃ t, step { running .encode .encPush abCoded with acc := List.replicate 71 true } = .next t) ∧
    State.PackerInv { running .encode .encFlush abCoded with acc := [true] } ∧
    (∃ t, step { running .encode .encFlush abCoded with acc := [true] } = .next t) := by
  refine ⟨⟨abCoded_codes, ?_, ?_, ?_, ?_⟩, goesOn (by decide +kernel),
    ⟨abCoded_codes, ?_, ?_, ?_, ?_⟩, goesOn (by decide +kernel)⟩ <;> decide

theorem witness_DecodeCountPhaseReadsTheCount :
    (running .decode .accepted fresh).busy = true ∧ (running .decode .accepted fresh).point = .accepted ∧
    (running .decode (.decCount 3 0) fresh).point = .decCount 3 0 ∧ (running .decode (.decCount 3 0) fresh).inFifo = [] ∧
    ({ running .decode (.decCount 2 1) fresh with inFifo := [.data 0] } : State).inFifo = .data 0 :: [] ∧
    (2 : Fin 4) ≠ 3 ∧ BitVec.ofNat 32 ((0 : Word).toNat * 256 + (0 : Byte).toNat) = 0 ∧
    BitVec.ofNat 32 ((0xFFFFFF : Word).toNat * 256 + (0xFF : Byte).toNat) ≠ 0 := by decide

/-- The tree phase of T44.15 at its third byte: NODE 0 internal, leaf 'a' read, and the symbol bits 01100 of a
second leaf. -/
def secondLeaf : State :=
  { running .decode (.decTree (.sym 2 5 12)) fresh with
    seen := symPut fresh.seen 0x61 true, next := 3, pstack := [0], inFifo := [.data 0x20, .eos] }

/-- The tree phase of T44.16 before its last byte: 504 internal tags read, the 512th tag is the byte's last bit. -/
def manyTags : State :=
  { running .decode (.decTree .tag) fresh with next := 504, pstack := [503], inFifo := [.data 0, .data 0, .eos] }

theorem witness_HeaderDefectsAreMalformed :
    secondLeaf.busy = true ∧ manyTags.busy = true ∧
    (running .decode (.decTree .tag) fresh).point = .decTree .tag ∧ (running .decode (.decTree .tag) fresh).inFifo = [] ∧
    ({ running .decode (.decCount 0 0) fresh with inFifo := [.eos] } : State).inFifo = .eos :: [] ∧
    (∃ k n, (running .decode (.decCount 0 0) fresh).point = .decCount k n) ∧
    (∃ pos, (running .decode (.decTree .tag) fresh).point = .decTree pos) ∧
    manyTags.inFifo = .data 0 :: [.data 0, .eos] ∧ manyTags.point = .decTree .tag ∧
    (Claims.afterHeaderBits 7 .tag { manyTags with inFifo := [.data 0, .eos], dbyte := 0, dbits := 8 }).map
      (fun x => (x.1, x.2.next)) = some (.tag, 511) ∧
    secondLeaf.inFifo = .data 0x20 :: [.eos] ∧ secondLeaf.point = .decTree (.sym 2 5 12) ∧
    (Claims.afterHeaderBits 2 (.sym 2 5 12) { secondLeaf with inFifo := [.eos], dbyte := 0x20, dbits := 8 }).map
      (fun x => (x.1, symGet x.2.seen (BitVec.ofNat 8 ((48 : Byte).toNat * 2 + ((0x20 : Byte).getLsbD 5).toNat)))) =
      some (.sym 2 7 48, true) :=
  ⟨rfl, rfl, rfl, rfl, rfl, ⟨_, _, rfl⟩, ⟨_, rfl⟩, rfl, rfl, by decide +kernel, rfl, rfl, by decide +kernel⟩

/-- The error of the last clause: T44.15's third byte raises MALFORMED_HEADER, with 5 bits left. -/
theorem witness_HeaderDefectsAreMalformed_error :
    secondLeaf.err = false ∧ ∃ t, exec .decode secondLeaf = .next t ∧ (t.err && decide (t.dbits = 5)) = true :=
  ⟨rfl, goesOn_with (fun t => t.err && decide (t.dbits = 5)) (by decide +kernel)⟩

/-- The tree of "ab" (T43.6) and a one-leaf tree (T44.8). -/
theorem witness_DecodeRebuildsTheSerialisedTree :
    Runs .decode (running .decode (.decTree .tag) fresh) ∧ (running .decode (.decTree .tag) fresh).sched = [] ∧
    (running .decode (.decTree .tag) fresh).point = .decTree .tag ∧ (running .decode (.decTree .tag) fresh).next = 0 ∧
    (running .decode (.decTree .tag) fresh).pstack = [] ∧
    (∀ b, symGet (running .decode (.decTree .tag) fresh).seen b = false) ∧
    (leafSymbols (.node (.leaf 0x61) (.leaf 0x62))).Nodup ∧
    toBytes (padByte (ser (.node (.leaf 0x61) (.leaf 0x62)))) = [0x58, 0x6C, 0x40] ∧
    toBytes (padByte (ser (.leaf 0x61))) = [0xB0, 0x80] :=
  ⟨by decide, rfl, rfl, rfl, rfl, fun b => symGet_replicate b false, by decide, by decide, by decide⟩

theorem witness_DegenerateOutputPushesTheSymbol :
    (decoding .decDegen).busy = true ∧ (decoding .decDegen).point = .decDegen ∧ (decoding .decDegen).root = some 0 ∧
    (full (decoding .decDegen)).outDepth.toNat ≤ (full (decoding .decDegen)).outFifo.length ∧
    (decoding .decDegen).outFifo.length < (decoding .decDegen).outDepth.toNat := by decide

theorem cab_tree : wholeTree (decoding .decTok).node 0 = some cabTree := by decide +kernel

/-- A path of one bit, and the path of 8 bits to leaf 7 of a chain. -/
theorem witness_DataTokenWalksToTheLeaf :
    (decoding .decTok).busy = true ∧ (decoding .decTok).point = .decTok ∧
    (decoding .decTok).emitted < (decoding .decTok).dcount ∧ (decoding .decTok).cur = some 0 ∧
    wholeTree (decoding .decTok).node 0 = some cabTree ∧ (0x63, [false]) ∈ leafPaths cabTree ∧
    [false] ≠ [] ∧ [false] <+: bin 8 (0x7F : Byte).toNat ∧
    wholeTree (chainArena 65) 0 = some (chainTree 65 0) ∧
    (0x07, List.replicate 7 true ++ [false]) ∈ leafPaths (chainTree 65 0) ∧
    (List.replicate 7 true ++ [false]) <+: bin 8 (0xFE : Byte).toNat :=
  ⟨rfl, rfl, by decide, rfl, cab_tree, by decide, by decide, by decide, chain_tree (by decide), by decide +kernel⟩

theorem witness_DataTokenInsideAWalkWaitsForMore :
    wholeTree (chainArena 65) 0 = some (chainTree 65 0) ∧
    Claims.below (chainTree 65 0) (bin 8 (0xFF : Byte).toNat) = some (.node (.leaf 8) (chainTree 56 9)) ∧
    (decoding .decTok).emitted < (decoding .decTok).dcount ∧ (decoding .decTok).cur = some 0 :=
  ⟨chain_tree (by decide), by decide +kernel, by decide, rfl⟩

theorem cab_inner : InnerAt (decoding .decTok).node 0 := ⟨.leaf 0x63, .node (.leaf 0x61) (.leaf 0x62), cab_tree⟩

theorem witness_DecodePushEmitsOneSymbol :
    (decoding .decPush).busy = true ∧ (decoding .decPush).point = .decPush ∧ (decoding .decPush).cur = some 0 ∧
    (decoding .decPush).emitted < (decoding .decPush).dcount ∧
    (full (decoding .decPush)).outDepth.toNat ≤ (full (decoding .decPush)).outFifo.length ∧
    (decoding .decPush).outFifo.length < (decoding .decPush).outDepth.toNat ∧ (decoding .decPush).dbits = 0 ∧
    ({ decoding .decPush with emitted := 8 } : State).emitted + 1 = (decoding .decPush).dcount ∧
    ({ decoding .decPush with dbits := 7 } : State).dbits ≠ 0 ∧
    (decoding .decPush).emitted + 1 ≠ (decoding .decPush).dcount ∧ (decoding .decPush).root = some 0 ∧
    wholeTree (decoding .decPush).node 0 = some (.node (.leaf 0x63) (.node (.leaf 0x61) (.leaf 0x62))) ∧
    (0x63, [false]) ∈ leafPaths cabTree ∧ [false] <+: bin (7 : BitVec 4).toNat (0x01 : Byte).toNat ∧
    (0x62, [true, true]) ∈ leafPaths cabTree ∧ [true, true] <+: bin (2 : BitVec 4).toNat (0x03 : Byte).toNat ∧
    Claims.below cabTree (bin (1 : BitVec 4).toNat (0x01 : Byte).toNat) = some (.node (.leaf 0x61) (.leaf 0x62)) :=
  ⟨rfl, rfl, rfl, by decide, by decide, by decide, rfl, by decide, by decide, by decide, rfl, cab_tree, by decide,
    by decide, by decide, by decide, by decide⟩

theorem witness_DataAfterTheLastSymbolSetsExtra :
    (decoding .decTok).busy = true ∧ (decoding .decTok).point = .decTok ∧ (decoding .decTok).inFifo = [] ∧
    ({ decoding .decTok with inFifo := [.data 0xFF] } : State).inFifo = .data 0xFF :: [] ∧
    ({ decoding .decTok with emitted := 9 } : State).emitted = (decoding .decTok).dcount := by decide

theorem witness_EosEndsTheDecode :
    ({ decoding .decTok with inFifo := [.eos] } : State).inFifo = .eos :: [] ∧
    ({ decoding .decTok with emitted := 8 } : State).emitted < (decoding .decTok).dcount ∧
    ({ decoding .decTok with walk := some 2 } : State).cur ≠ (decoding .decTok).root ∧
    (decoding .decTok).cur = (decoding .decTok).root ∧
    ¬({ decoding .decTok with emitted := 9 } : State).emitted < (decoding .decTok).dcount := by decide

theorem ab_fifos (l : List Event) : State.FifoInv { full ab with sched := l, inFifo := [.eos] } :=
  ⟨(by decide : (1 : Nat) ≤ 16), (by decide : (16 : Nat) ≤ 16)⟩

theorem witness_ReadsReturnTheRegisterTable :
    State.FifoInv { full ab with sched := [.rd 32 0x10], inFifo := [.eos] } ∧
    (0x10, statusWord ab) ∈ Claims.readTable ab ∧ (0x48, 0) ∈ Claims.readTable ab ∧
    Claims.ReservedOffset 0x4C ∧ Claims.ReservedOffset 0xFFC ∧ ab.outFifo = [] ∧
    (full ab).outFifo = 0 :: List.replicate 15 0 :=
  ⟨ab_fifos _, by simp [Claims.readTable], by simp [Claims.readTable, ab, withFreq, fresh, State.reset,
    State.resetWith], by unfold Claims.ReservedOffset; decide, by unfold Claims.ReservedOffset; decide, rfl, rfl⟩

theorem witness_PlainWritesHaveTheirTableEffect :
    (0x00 : BitVec 12) ∈ Claims.readOnlyOffsets ∧ (0x48 : BitVec 12) ∈ Claims.readOnlyOffsets ∧
    Claims.ReservedOffset 0x4C ∧ Claims.ReservedOffset 0xFFC := by unfold Claims.ReservedOffset; decide

theorem witness_CtrlWriteResetsOrSetsAndFlushes :
    (0x1F : Word).getLsbD 0 = true ∧ (0x1E : Word).getLsbD 0 = false ∧ (0x1E : Word).getLsbD 4 = true := by decide

theorem witness_StatusWriteClearsTheWrittenOnes :
    ({ ab with sched := [.wr 32 0x10 0x0000F806] } : State).sched = .wr 32 0x10 0x0000F806 :: [] := rfl

theorem witness_DinWriteAppendsOrDrops :
    ({ ab with inFifo := List.replicate 16 .eos } : State).inFifo.length = ab.inDepth.toNat ∧
    ({ ab with inFifo := List.replicate 15 .eos } : State).inFifo.length < ab.inDepth.toNat ∧
    (0x1FF : Word).getLsbD 8 = true ∧ (0xFFFFFEFF : Word).getLsbD 8 = false := by decide

theorem witness_OutsideAccessesAreRefused :
    ({ ab with sched := [.wr 16 0 0] } : State).sched = .wr 16 0 0 :: [] ∧ (16 : Nat) ≠ 32 ∧
    ({ ab with sched := [.rd 32 0x002] } : State).sched = .rd 32 0x002 :: [] ∧ (0x002 : BitVec 12).toNat % 4 ≠ 0 ∧
    ({ ab with sched := [.fetch 0] } : State).sched = .fetch 0 :: [] := by decide

theorem witness_ResetGivesEveryElementItsValue :
    ({ abCoded with sched := [.hardReset, .engine] } : State).sched = .hardReset :: [.engine] := rfl

/-- COUNT about to count a byte of "ab". -/
theorem witness_StepKeepsTotalTheSumOfFreq :
    State.CountsInv { running .count .countPop ab with inFifo := [.data 0x63] } ∧
    ∃ t, step { running .count .countPop ab with inFifo := [.data 0x63] } = .next t :=
  ⟨⟨ab_counts.total, ab_counts.nsym⟩, goesOn (by decide +kernel)⟩

/-- ENCODE about to meet a byte with no code. -/
theorem witness_StepKeepsDoneAndErrApart :
    State.FlagsInv { running .encode .encPop abCoded with inFifo := [.data 0x63] } ∧
    ∃ t, step { running .encode .encPop abCoded with inFifo := [.data 0x63] } = .next t :=
  ⟨⟨by decide, by decide, by decide, by decide⟩, goesOn (by decide +kernel)⟩

theorem witness_StepKeepsFifosWithinTheirDepths :
    State.FifoInv { full ab with sched := [.wr 32 0x28 0x61], inFifo := [.eos] } ∧
    ∃ t, step { full ab with sched := [.wr 32 0x28 0x61], inFifo := [.eos] } = .next t :=
  ⟨ab_fifos _, goesOn (by decide)⟩

/-- The token loop of DECODE with the tree of T44.17. -/
theorem decoding_sound (l : List Event) : State.SoundInv { decoding .decTok with sched := l } where
  point := fun _ => ⟨.decode, by show decodeWord (commandWord 0 0x40) = _; decide, rfl⟩
  tree :=
    { valid := fun _ r hr => by cases hr; exact ⟨_, cab_tree⟩
      noWalk := fun _ => rfl
      gencode := fun h => absurd h.2 (by show decodeWord (commandWord 0 0x40) ≠ _; decide)
      emithdr := fun h => absurd h.2 (by show decodeWord (commandWord 0 0x40) ≠ _; decide)
      start := fun _ h => by cases h
      count := fun _ _ _ h => by cases h
      header := fun _ _ h => by cases h
      degen := fun _ h => by cases h
      token := fun _ _ _ => ⟨0, 0, rfl, rfl, cab_inner, cab_inner⟩
      push := fun _ h => by cases h }

/-- GENCODE just accepted on "ab". -/
theorem gencode_sound : State.SoundInv (running .gencode .accepted ab) where
  point := fun _ => ⟨.gencode, rfl, rfl⟩
  tree :=
    { valid := fun _ r hr => by cases hr; exact ⟨_, ab_tree⟩
      noWalk := fun _ => rfl
      gencode := fun _ => rfl
      emithdr := fun _ _ => rfl
      start := fun h => absurd h.2 (by decide)
      count := fun _ _ _ h => by cases h
      header := fun _ _ h => by cases h
      degen := fun _ h => by cases h
      token := fun _ h => by cases h
      push := fun _ h => by cases h }

/-- DECODE inside T44.1's header: one internal record read, which waits for its children. -/
def parsing : State :=
  { running .decode (.decTree .tag) fresh with
    node := blankArena.set 0 (innerNode none none 0)
    next := 1
    pstack := [0]
    dcount := 9
    treeDec := true
    inFifo := [.data 0xD6] }

theorem first_record {j : Fin 511} (h : j.val < writtenAt parsing .tag) : j = 0 := by
  have h' : j.val < 1 := h
  exact Fin.ext (by show j.val = 0; omega)

theorem parsing_sound : parsing.SoundInv where
  point := fun _ => ⟨.decode, by decide, rfl⟩
  tree :=
    { valid := fun h => by cases h
      noWalk := fun _ => rfl
      gencode := fun h => absurd h.2 (by decide)
      emithdr := fun h => absurd h.2 (by decide)
      start := fun _ h => by cases h
      count := fun _ _ _ h => by cases h
      header := by
        intro pos _ hp
        cases hp
        refine ⟨rfl, rfl, by decide, ⟨(fun _ _ _ h => by cases h), (fun j hj => ?_), (fun p hp => ?_), by decide⟩⟩
        · cases first_record hj
          exact ⟨by decide, .inr (.inl ⟨by decide, by decide, by decide, fun c h => by cases h⟩)⟩
        · cases List.mem_singleton.mp hp
          decide
      degen := fun _ h => by cases h
      token := fun _ h => by cases h
      push := fun _ h => by cases h }

theorem parsing_labels : parsing.LabelsInv where
  gencode := fun h => absurd h.2 (by decide)
  valid := fun h => by cases h
  header := by
    intro pos _ hp
    cases hp
    refine ⟨fun i j c hi hj _ _ h _ => ?_, fun i hi h => ?_, fun i j hi hj _ _ _ => ?_⟩
    · cases first_record hi
      rcases h with h | h <;> cases h
    · cases first_record hi
      cases h
    · rw [first_record hi, first_record hj]

theorem witness_StepKeepsTheEngineSound_header :
    parsing.SoundInv ∧ parsing.LabelsInv ∧ ∃ t, step parsing = .next t :=
  ⟨parsing_sound, parsing_labels, goesOn (by decide +kernel)⟩

theorem witness_StepKeepsTheEngineSound :
    State.SoundInv { decoding .decTok with sched := [.engine] } ∧
    ∃ t, step { decoding .decTok with sched := [.engine] } = .next t :=
  ⟨decoding_sound _, goesOn (by decide +kernel)⟩

theorem witness_StepKeepsLeafSymbolsDistinct :
    (running .gencode .accepted ab).SoundInv ∧ (running .gencode .accepted ab).LabelsInv ∧
    ∃ t, step (running .gencode .accepted ab) = .next t :=
  ⟨gencode_sound, gencode_labels, goesOn (by decide +kernel)⟩

theorem witness_SoundEngineNeverFaults :
    (running .gencode .accepted ab).SoundInv ∧ (running .gencode .accepted ab).sched = [] ∧
    State.SoundInv { decoding .decTok with sched := [.engine] } :=
  ⟨gencode_sound, rfl, decoding_sound _⟩

/-- "ab" built: the root weighs TOTAL = 2; the host presents EMITHDR. -/
theorem witness_StepKeepsTheHeaderCountConsistent :
    State.HeaderInv { ab with sched := [.wr 32 0x14 0x30] } ∧
    ∃ t, step { ab with sched := [.wr 32 0x14 0x30] } = .next t := by
  refine ⟨⟨⟨ab_counts.total, ab_counts.nsym⟩, fun h => ?_, fun h => ?_, fun _ _ h => ?_, fun _ _ r hr => ?_⟩,
    goesOn (by decide +kernel)⟩
  · cases h.1
  · cases h.1
  · cases h
  · cases hr
    decide +kernel

theorem witness_StepKeepsCodesMatchedToTheTree :
    abCoded.CodesMatchInv ∧ ∃ t, step abCoded = .next t := by
  refine ⟨⟨fun h => ?_, fun h => ?_, fun _ => rfl, fun _ h => ?_, fun _ r hr => ?_⟩, goesOn (by decide)⟩
  · cases h.1
  · cases h.1
  · cases h
  · cases hr
    exact ⟨_, ab_tree, by decide +kernel⟩

theorem witness_ResetMeetsEveryInvariant :
    Config.Depths.Legal { inDepth := 1, outDepth := 0xFFFF } := by decide

/-- One command for each clause. -/
theorem witness_OnlyTheirCommandsWriteTheTables :
    (∃ t, exec .clrfreq (running .clrfreq .accepted ab) = .next t ∧ decide (t.total ≠ ab.total) = true) ∧
    (∃ t, exec .build (running .build .accepted fresh) = .next t ∧ decide (t.treeValid ≠ fresh.treeValid) = true) ∧
    (∃ t, exec .gencode (running .gencode .accepted ab) = .next t ∧
      decide (symGet t.code 0x61 ≠ symGet ab.code 0x61) = true) ∧
    (∃ t, exec (.rdfreq 0x61) (running (.rdfreq 0x61) .accepted ab) = .next t ∧ decide (t.res0 ≠ ab.res0) = true) ∧
    (∃ t, exec .decode { running .decode (.decCount 3 0) fresh with inFifo := [.data 9] } = .next t ∧
      decide (t.dcount ≠ fresh.dcount) = true) ∧
    (∃ t, exec .encode { running .encode .encFlush abCoded with acc := [true] } = .next t ∧
      decide (t.outFifo ≠ abCoded.outFifo) = true) ∧
    (∃ t, exec .count { running .count .countPop ab with inFifo := [.eos] } = .next t ∧
      decide (t.inFifo ≠ [.eos]) = true) ∧
    ∃ t, exec .build (running .build .accepted abTable) = .next t ∧ t.node ≠ blankArena := by
  refine ⟨goesOn_with _ ?_, goesOn_with _ ?_, goesOn_with _ ?_, goesOn_with _ ?_, goesOn_with _ ?_, goesOn_with _ ?_,
    goesOn_with _ ?_, ?_⟩
  iterate 7 decide +kernel
  obtain ⟨t, h, hd⟩ := ab_built
  refine ⟨t, h, fun e => ?_⟩
  have hl := (of_decide_eq_true hd).1
  rw [e] at hl
  simp [blankArena, Node.blank] at hl

/-- A read and a write while DONE, and each warning, are set. -/
theorem witness_HostAccessesReachTheEngineOnlyByCmdAndReset :
    (∃ t, step { ab with
        done := true, partialEnd := true, trunc := true, extra := true, cmdrej := true, sched := [.rd 32 0x2C] } =
        .next t ∧ (t.done && t.partialEnd && t.trunc && t.extra && t.cmdrej) = true) ∧
    (∃ t, step { raiseError .sequence ab with sched := [.wr 32 0x0C 0x1E] } = .next t ∧ t.err = true) ∧
    (0x0C : BitVec 12) ≠ 0x14 ∧ ¬((0x0C : BitVec 12) = 0x0C ∧ (0x1E : Word).getLsbD 0 = true) :=
  ⟨goesOn_with (fun t => t.done && t.partialEnd && t.trunc && t.extra && t.cmdrej) (by decide),
    goesOn_with State.err (by decide), by decide⟩

theorem witness_MicroStepDoesAtMostOneFifoOperation :
    (∃ t, exec .count { running .count .countPop ab with inFifo := [.eos] } = .next t) ∧
    (∃ t, exec .encode { running .encode .encFlush abCoded with acc := [true] } = .next t) ∧
    ∃ t, exec .nop (running .nop .accepted ab) = .next t :=
  ⟨goesOn (by decide), goesOn (by decide), goesOn (by decide)⟩

theorem witness_SingleStepCommandsEndInOneMicroStep :
    (running .gencode .accepted ab).SoundInv ∧ Runs .gencode (running .gencode .accepted ab) ∧
    Instr.gencode ≠ .count ∧ Instr.gencode ≠ .emithdr ∧ Instr.gencode ≠ .encode ∧ Instr.gencode ≠ .decode :=
  ⟨gencode_sound, by decide⟩

theorem witness_IrqFollowsCompletionAndErrorOnly :
    (running .nop .accepted { ab with ieDone := true }).irq = false ∧
    (∃ t, exec .nop (running .nop .accepted { ab with ieDone := true }) = .next t ∧ t.irq = true) ∧
    (running .encode .encPop { abCoded with ieErr := true, inFifo := [.data 0] }).irq = false ∧
    ∃ t, exec .encode (running .encode .encPop { abCoded with ieErr := true, inFifo := [.data 0] }) = .next t ∧
      t.irq = true :=
  ⟨by decide, goesOn_with State.irq (by decide), by decide, goesOn_with State.irq (by decide +kernel)⟩

end Sys2Proof.Tests
end

section
/-! PROOFS. 00_scope.md: the engine's turn (R13), one FIFO operation per micro-step (R12, R13) and the single-step
commands (R14). -/

namespace Sys2Proof.Machine

variable {s t u : State} {c d : Instr}

/-! ### The engine's turn (R13, 10_state.md R46) -/

/-- The turn of an engine that runs `c` is one micro-step of `c`. -/
theorem engineTurn_runs (h : Runs c s) : engineTurn s = exec c s := by
  simp [engineTurn, h.1, h.2]

/-! ### The decoder's three forms (30_encoding.md R142, R143) -/

theorem decodeNoIndex_eq_ok {w : Word} :
    decodeNoIndex w c = .ok d ↔ rsvField w = 0 ∧ idxField w = 0 ∧ c = d := by
  unfold decodeNoIndex
  split
  · simp_all
  · split <;> simp_all

theorem decodeSymbol_eq_ok {w : Word} {f : Byte → Instr} :
    decodeSymbol w f = .ok d ↔
      rsvField w = 0 ∧ (idxField w).getLsbD 8 = false ∧ f ((idxField w).extractLsb' 0 8) = d := by
  unfold decodeSymbol
  split
  · simp_all
  · split <;> simp_all

theorem decodeNode_eq_ok {w : Word} {f : Idx → Instr} :
    decodeNode w f = .ok d ↔ rsvField w = 0 ∧ idxField w ≠ Config.noneIdx ∧ f (idxField w) = d := by
  unfold decodeNode
  split
  · simp_all
  · split <;> simp_all

/-- What the decoder answers is a command the encoding admits: RDNODE's index is never NONE (R143). -/
theorem decodeWord_wellFormed {w : Word} (h : decodeWord w = .ok c) : c.WellFormed := by
  unfold decodeWord at h
  split at h
  case h_7 => -- RDNODE
    obtain ⟨-, hidx, rfl⟩ := decodeNode_eq_ok.mp h
    exact hidx
  case h_4 | h_5 | h_9 => -- the commands that take a symbol
    obtain ⟨-, -, rfl⟩ := decodeSymbol_eq_ok.mp h
    trivial
  case h_13 => cases h -- a reserved opcode
  all_goals
    obtain ⟨-, -, rfl⟩ := decodeNoIndex_eq_ok.mp h
    trivial

/-! ### What a micro-step does to the FIFOs and OUTBYTES -/

/-- Neither FIFO nor OUTBYTES changed. -/
def SameFifos (s t : State) : Prop := t.inFifo = s.inFifo ∧ t.outFifo = s.outFifo ∧ t.outbytes = s.outbytes

theorem SameFifos.refl (s : State) : SameFifos s s := ⟨rfl, rfl, rfl⟩

theorem SameFifos.trans (h : SameFifos s t) (h' : SameFifos t u) : SameFifos s u :=
  ⟨h'.1.trans h.1, h'.2.1.trans h.2.1, h'.2.2.trans h.2.2⟩

/-- No FIFO operation, one `pop_in()`, or one `push_out(b)` into a FIFO with room (R12, R13). -/
def AtMostOneFifoOperation (s t : State) : Prop :=
  SameFifos s t ∨
  (∃ k, s.inFifo = k :: t.inFifo ∧ t.outFifo = s.outFifo ∧ t.outbytes = s.outbytes) ∨
  (∃ b, s.outFifo.length < s.outDepth.toNat ∧ t.outFifo = s.outFifo ++ [b] ∧ t.outbytes = s.outbytes + 1 ∧
    t.inFifo = s.inFifo)

/-- An engine that waits does nothing. -/
theorem atMostOneFifoOperation_wait (s : State) : AtMostOneFifoOperation s s := .inl (SameFifos.refl s)

/-- A `pop_in()` and then no other FIFO operation. -/
theorem atMostOneFifoOperation_popIn {k : Token} (hp : popIn s = some (k, u)) (h : SameFifos u t) :
    AtMostOneFifoOperation s t := by
  obtain ⟨-, hn⟩ | ⟨k', rest, hi, hs⟩ := popIn_cases s
  · simp [hn] at hp
  · obtain ⟨rfl, rfl⟩ : k' = k ∧ { s with inFifo := rest } = u := by simpa [hs] using hp
    obtain ⟨hin, hout, hbytes⟩ := h
    exact .inr (.inl ⟨k', hin ▸ hi, hout, hbytes⟩)

/-- A `push_out` and then no other FIFO operation. -/
theorem atMostOneFifoOperation_pushOut {b : Byte} (hp : pushOut b s = some u) (h : SameFifos u t) :
    AtMostOneFifoOperation s t := by
  obtain ⟨-, hn⟩ | ⟨hroom, hs⟩ := pushOut_cases b s
  · simp [hn] at hp
  · obtain rfl := Option.some.inj (hs.symm.trans hp)
    obtain ⟨hin, hout, hbytes⟩ := h
    exact .inr (.inr ⟨b, hroom, hout, hbytes, hin⟩)

/-! ### The parts of the bodies that leave the FIFOs alone -/

theorem countToken_sameFifos (k : Token) (s : State) : SameFifos s (countToken k s) := by
  cases k with
  | eos => exact ⟨rfl, rfl, rfl⟩
  | data b =>
    unfold countToken
    dsimp only
    split <;> exact ⟨rfl, rfl, rfl⟩

theorem hdrNext_sameFifos (bytes : List Byte) (s : State) : SameFifos s (hdrNext bytes s) := by
  cases bytes <;> exact ⟨rfl, rfl, rfl⟩

theorem encNext_sameFifos (s : State) : SameFifos s (encNext s) := by
  unfold encNext
  split <;> exact ⟨rfl, rfl, rfl⟩

theorem encToken_sameFifos (k : Token) (s : State) : SameFifos s (encToken k s) := by
  cases k with
  | eos =>
    unfold encToken
    dsimp only
    split <;> exact ⟨rfl, rfl, rfl⟩
  | data b =>
    unfold encToken
    dsimp only
    split
    · exact SameFifos.trans ⟨rfl, rfl, rfl⟩ (encNext_sameFifos _)
    · exact ⟨rfl, rfl, rfl⟩

theorem startStreaming_sameFifos (s : State) : SameFifos s (startStreaming s) := by
  unfold startStreaming
  dsimp only
  split
  · exact ⟨rfl, rfl, rfl⟩
  · split <;> exact ⟨rfl, rfl, rfl⟩

theorem countDone_sameFifos (n : Word) (s : State) : SameFifos s (countDone n s) := by
  unfold countDone
  dsimp only
  split
  · exact SameFifos.trans ⟨rfl, rfl, rfl⟩ (startStreaming_sameFifos _)
  · exact ⟨rfl, rfl, rfl⟩

theorem decCountToken_sameFifos (k : Fin 4) (n : Word) (tok : Token) (s : State) :
    SameFifos s (decCountToken k n tok s) := by
  cases tok with
  | eos => exact ⟨rfl, rfl, rfl⟩
  | data b =>
    unfold decCountToken
    dsimp only
    split
    · exact countDone_sameFifos _ s
    · exact ⟨rfl, rfl, rfl⟩

theorem decTreeToken_sameFifos (pos : TreePos) (tok : Token) (s : State) :
    SameFifos s (decTreeToken pos tok s) := by
  cases tok with
  | eos => exact ⟨rfl, rfl, rfl⟩
  | data b =>
    obtain ⟨_, _, _, _, _, _, _, _, _, _, _, _, _, e, -⟩ := headerBits_frame 8 pos { s with dbyte := b, dbits := 8 }
    rw [decTreeToken, e]
    exact ⟨rfl, rfl, rfl⟩

theorem degenPushed_sameFifos (s : State) : SameFifos s (degenPushed s) := by
  unfold degenPushed
  dsimp only
  split <;> exact ⟨rfl, rfl, rfl⟩

theorem walkBits_sameFifos {n : Nat} (h : walkBits n s = .next t) : SameFifos s t := by
  obtain ⟨_, _, _, -, rfl⟩ := walkBits_frame n h
  exact ⟨rfl, rfl, rfl⟩

theorem decTokToken_sameFifos {tok : Token} (h : decTokToken tok s = .next t) : SameFifos s t := by
  cases tok with
  | eos => cases h; exact ⟨rfl, rfl, rfl⟩
  | data b =>
    unfold decTokToken at h
    dsimp only at h
    split at h
    · cases h; exact ⟨rfl, rfl, rfl⟩
    · obtain ⟨hin, hout, hbytes⟩ := walkBits_sameFifos h
      exact ⟨hin, hout, hbytes⟩

/-! ### The four commands that wait at a FIFO, by program point -/

theorem countBody_atMostOneFifoOperation (h : countBody s = .next t) : AtMostOneFifoOperation s t := by
  cases hpoint : s.point <;> simp only [countBody, hpoint] at h
  case accepted => cases h; exact .inl ⟨rfl, rfl, rfl⟩
  case countPop =>
    split at h
    · cases h; exact atMostOneFifoOperation_wait s
    · next hp => cases h; exact atMostOneFifoOperation_popIn hp (countToken_sameFifos _ _)
  all_goals cases h

theorem emithdrBody_atMostOneFifoOperation (h : emithdrBody s = .next t) : AtMostOneFifoOperation s t := by
  cases hpoint : s.point <;> simp only [emithdrBody, hpoint] at h
  case accepted =>
    split at h
    · cases h; exact .inl (hdrNext_sameFifos _ s)
    · split at h
      · cases h
      · cases h; exact .inl (hdrNext_sameFifos _ s)
  case hdrPush b rest =>
    split at h
    · cases h; exact atMostOneFifoOperation_wait s
    · next hp => cases h; exact atMostOneFifoOperation_pushOut hp (hdrNext_sameFifos _ _)
  all_goals cases h

theorem encodeBody_atMostOneFifoOperation (h : encodeBody s = .next t) : AtMostOneFifoOperation s t := by
  cases hpoint : s.point <;> simp only [encodeBody, hpoint] at h
  case accepted => cases h; exact .inl ⟨rfl, rfl, rfl⟩
  case encPop =>
    split at h
    · cases h; exact atMostOneFifoOperation_wait s
    · next hp => cases h; exact atMostOneFifoOperation_popIn hp (encToken_sameFifos _ _)
  case encPush =>
    split at h
    · cases h; exact atMostOneFifoOperation_wait s
    · next hp =>
      cases h
      exact atMostOneFifoOperation_pushOut hp (SameFifos.trans ⟨rfl, rfl, rfl⟩ (encNext_sameFifos _))
  case encFlush =>
    split at h
    · cases h; exact atMostOneFifoOperation_wait s
    · next hp => cases h; exact atMostOneFifoOperation_pushOut hp ⟨rfl, rfl, rfl⟩
  all_goals cases h

theorem decodeBody_atMostOneFifoOperation (h : decodeBody s = .next t) : AtMostOneFifoOperation s t := by
  cases hpoint : s.point <;> simp only [decodeBody, hpoint] at h
  case accepted => cases h; exact .inl ⟨rfl, rfl, rfl⟩
  case decCount k n =>
    split at h
    · cases h; exact atMostOneFifoOperation_wait s
    · next hp => cases h; exact atMostOneFifoOperation_popIn hp (decCountToken_sameFifos _ _ _ _)
  case decTree pos =>
    split at h
    · cases h; exact atMostOneFifoOperation_wait s
    · next hp => cases h; exact atMostOneFifoOperation_popIn hp (decTreeToken_sameFifos _ _ _)
  case decDegen =>
    split at h
    · cases h
    · split at h
      · cases h; exact atMostOneFifoOperation_wait s
      · next hp => cases h; exact atMostOneFifoOperation_pushOut hp (degenPushed_sameFifos _)
  case decTok =>
    split at h
    · cases h; exact atMostOneFifoOperation_wait s
    · next hp => exact atMostOneFifoOperation_popIn hp (decTokToken_sameFifos h)
  case decPush =>
    split at h
    · cases h
    · split at h
      · cases h; exact atMostOneFifoOperation_wait s
      · next hp =>
        obtain ⟨hin, hout, hbytes⟩ := walkBits_sameFifos h
        exact atMostOneFifoOperation_pushOut hp ⟨hin, hout, hbytes⟩
  all_goals cases h

/-! ### The single-step commands (R14) -/

/-- The eight commands whose body has no wait point (R14). -/
def SingleStepCommand (c : Instr) : Prop := c ≠ .count ∧ c ≠ .emithdr ∧ c ≠ .encode ∧ c ≠ .decode

/-- A single-step command owns no program point but its start. -/
theorem SingleStepCommand.point_of_ownsPoint {p : Point} (hc : SingleStepCommand c) (h : ownsPoint c p = true) :
    p = .accepted := by
  obtain ⟨hcount, hhdr, henc, hdec⟩ := hc
  cases p <;> simp_all [ownsPoint]

/-- The command ended, with DONE or ERR, and left the FIFOs alone. -/
def EndsFrom (s t : State) : Prop := t.busy = false ∧ (t.done = true ∨ t.err = true) ∧ SameFifos s t

theorem finish_endsFrom (h : SameFifos s u) : EndsFrom s (finish u) := ⟨rfl, .inl rfl, h⟩

theorem raiseError_endsFrom (e : HuffError) (h : SameFifos s u) : EndsFrom s (raiseError e u) :=
  ⟨rfl, .inr rfl, h⟩

theorem wrfreqBody_endsFrom (b : Byte) (s : State) : EndsFrom s (wrfreqBody b s) := by
  unfold wrfreqBody
  split
  · exact finish_endsFrom ⟨rfl, rfl, rfl⟩
  · exact raiseError_endsFrom _ (SameFifos.refl s)

theorem gencodePaths_endsFrom (ps : List (Byte × Bits)) (s : State) : EndsFrom s (gencodePaths ps s) := by
  unfold gencodePaths
  split
  · exact raiseError_endsFrom _ ⟨rfl, rfl, rfl⟩
  · exact finish_endsFrom ⟨rfl, rfl, rfl⟩

/-- GENCODE ends, or meets a tree that is not complete. -/
theorem gencodeBody_cases (s : State) :
    (∃ u, gencodeBody s = .next u ∧ EndsFrom s u) ∨
    (∃ f, gencodeBody s = .fault f) ∧ ¬TreeReady s.node s.root := by
  unfold gencodeBody
  cases hr : s.root with
  | none => exact .inl ⟨_, rfl, finish_endsFrom ⟨rfl, rfl, rfl⟩⟩
  | some r =>
    dsimp only
    cases ht : wholeTree s.node r with
    | none => exact .inr ⟨⟨_, rfl⟩, fun hready => by simpa [ht] using hready r rfl⟩
    | some tr => exact .inl ⟨_, rfl, gencodePaths_endsFrom _ s⟩

/-- Everything a running single-step command can do: it ends, or it faults, for a reason no sound state gives. -/
def EndsOrFaults (c : Instr) (s : State) : Prop :=
  (∃ t, exec c s = .next t ∧ EndsFrom s t) ∨
  (∃ f, exec c s = .fault f) ∧
    (s.point ≠ .accepted ∨ ¬c.WellFormed ∨ c = .gencode ∧ ¬TreeReady s.node s.root)

/-- A running command that is a single step to `u` at its start ends there, or faults at a foreign point. -/
theorem endsOrFaults_of_singleStep {p : Bool} {a : State → State} {body : State → Result} (hb : s.busy = true)
    (he : exec c s = runCommand c p a (singleStep body) s) (hbody : body s = .next u) (hu : EndsFrom s u) :
    EndsOrFaults c s := by
  rw [runCommand_busy hb] at he
  by_cases hp : s.point = .accepted
  · rw [singleStep_start hp, hbody] at he
    exact .inl ⟨u, he, hu⟩
  · rw [singleStep_stray hp] at he
    exact .inr ⟨⟨_, he⟩, .inl hp⟩

/-- RDNODE of an arena index (41_tree_builder.md R250). -/
theorem execRdnode_some {i : Idx} {r : Fin 511} (h : refOfBits i = some r) :
    execRdnode i s = runCommand (.rdnode i) true id
      (singleStep fun s => .next (finish (setResult (nodeWord s.node[r]) (s.node[r]).weight 0 s))) s := by
  simp only [execRdnode, h]

theorem rdnode_endsOrFaults (i : Idx) (hb : s.busy = true) : EndsOrFaults (.rdnode i) s := by
  by_cases hi : i = Config.noneIdx
  · subst hi
    exact .inr ⟨⟨.strayPoint, by simp [exec, execRdnode, refOfBits_none, hb]⟩, .inr (.inl fun h => h rfl)⟩
  · have hlt : i.toNat < 511 := by
      have hne : i.toNat ≠ 511 := fun e => hi (BitVec.eq_of_toNat_eq e)
      omega
    have hr : refOfBits i = some ⟨i.toNat, hlt⟩ := refOfBits_some rfl
    exact endsOrFaults_of_singleStep hb (execRdnode_some hr) rfl (finish_endsFrom ⟨rfl, rfl, rfl⟩)

theorem gencode_endsOrFaults (hb : s.busy = true) : EndsOrFaults .gencode s := by
  obtain ⟨u, hbody, hu⟩ | ⟨⟨f, hbody⟩, htree⟩ := gencodeBody_cases s
  · exact endsOrFaults_of_singleStep hb rfl hbody hu
  · refine .inr ⟨?_, .inr (.inr ⟨rfl, htree⟩)⟩
    rw [exec, execGencode, runCommand_busy hb, singleStep]
    split
    · exact ⟨f, hbody⟩
    · exact ⟨_, rfl⟩

theorem SingleStepCommand.endsOrFaults (hc : SingleStepCommand c) (hb : s.busy = true) : EndsOrFaults c s := by
  obtain ⟨hcount, hhdr, henc, hdec⟩ := hc
  cases c with
  | nop => exact endsOrFaults_of_singleStep hb rfl rfl (finish_endsFrom (SameFifos.refl s))
  | clrfreq => exact endsOrFaults_of_singleStep hb rfl rfl (finish_endsFrom ⟨rfl, rfl, rfl⟩)
  | wrfreq b => exact endsOrFaults_of_singleStep hb rfl rfl (wrfreqBody_endsFrom b s)
  | rdfreq b => exact endsOrFaults_of_singleStep hb rfl rfl (finish_endsFrom ⟨rfl, rfl, rfl⟩)
  | build => exact endsOrFaults_of_singleStep hb rfl rfl (finish_endsFrom ⟨rfl, rfl, rfl⟩)
  | rdnode i => exact rdnode_endsOrFaults i hb
  | gencode => exact gencode_endsOrFaults hb
  | rdcode b => exact endsOrFaults_of_singleStep hb rfl rfl (finish_endsFrom ⟨rfl, rfl, rfl⟩)
  | count => exact absurd rfl hcount
  | emithdr => exact absurd rfl hhdr
  | encode => exact absurd rfl henc
  | decode => exact absurd rfl hdec

/-- In a sound state none of the faults' reasons is there. -/
theorem SingleStepCommand.ends_of_sound (hc : SingleStepCommand c) (hs : s.SoundInv) (hrun : Runs c s) :
    ∃ t, exec c s = .next t ∧ EndsFrom s t := by
  obtain ⟨hb, hdec⟩ := hrun
  obtain hend | ⟨-, hpoint | hwf | ⟨rfl, htree⟩⟩ := hc.endsOrFaults hb
  · exact hend
  · obtain ⟨c', hdec', hown⟩ := hs.point hb
    obtain rfl : c = c' := Except.ok.inj (hdec.symm.trans hdec')
    exact absurd (hc.point_of_ownsPoint hown) hpoint
  · exact absurd (decodeWord_wellFormed hdec) hwf
  · exact absurd (hs.tree.valid (hs.tree.gencode ⟨hb, hdec⟩)) htree

theorem SingleStepCommand.sameFifos (hc : SingleStepCommand c) (hb : s.busy = true) (h : exec c s = .next t) :
    SameFifos s t := by
  obtain ⟨u, hu, -, -, hsame⟩ | ⟨⟨f, hf⟩, -⟩ := hc.endsOrFaults hb
  · obtain rfl := Host.Outcome.next.inj (hu.symm.trans h)
    exact hsame
  · rw [hf] at h; cases h

/-- What the engine does to the FIFOs in one micro-step, for every command. -/
theorem exec_atMostOneFifoOperation (hb : s.busy = true) (h : exec c s = .next t) : AtMostOneFifoOperation s t := by
  by_cases hc : SingleStepCommand c
  · exact .inl (hc.sameFifos hb h)
  · obtain rfl | rfl | rfl | rfl : c = .count ∨ c = .emithdr ∨ c = .encode ∨ c = .decode := by
      simpa only [SingleStepCommand, not_and_or, not_not] using hc
    · exact countBody_atMostOneFifoOperation ((runCommand_busy hb).symm.trans h)
    · exact emithdrBody_atMostOneFifoOperation ((runCommand_busy hb).symm.trans h)
    · exact encodeBody_atMostOneFifoOperation ((runCommand_busy hb).symm.trans h)
    · exact decodeBody_atMostOneFifoOperation ((runCommand_busy hb).symm.trans h)

end Sys2Proof.Machine

namespace Sys2Proof.Proofs

open Sys2Proof.Machine

/-- Settles O6: an engine's scheduled turn and a step with nothing scheduled are both `engineTurn`, which leaves the
latches to `exec`. -/
theorem engineTurnRunsTheLatchedCommand : Obligations.EngineTurnRunsTheLatchedCommand := by
  intro s c hrun
  constructor
  · intro rest hsched
    rw [step_cons hsched]
    exact engineTurn_runs hrun
  · intro hsched
    rw [step_nil hsched]
    exact engineTurn_runs hrun

/-- Settles O58, by the program point of the four commands that wait at a FIFO; the others leave the FIFOs alone. -/
theorem microStepDoesAtMostOneFifoOperation : Obligations.MicroStepDoesAtMostOneFifoOperation :=
  fun _ _ _ hb h => exec_atMostOneFifoOperation hb h

/-- Settles O59: at its start a single-step command ends or faults, and a sound state has no reason for a fault. -/
theorem singleStepCommandsEndInOneMicroStep : Obligations.SingleStepCommandsEndInOneMicroStep := by
  intro c s hsound hrun hcount hhdr henc hdec
  have hc : SingleStepCommand c := ⟨hcount, hhdr, henc, hdec⟩
  obtain ⟨t, hexec, hbusy, hflag, hin, hout, -⟩ := hc.ends_of_sound hsound hrun
  exact ⟨t, hexec, hbusy, hflag, hin, hout⟩

end Sys2Proof.Proofs
end

section
/-! PROOFS. 10_state.md: who writes each element of the state, at acceptance, in a micro-step and at a host access
(R31, R33, R39, R40, R61, R62, R68). -/

namespace Sys2Proof.Machine

variable {s t u : State} {c : Instr}

/-! ### Acceptance (45_host_interface.md R380 to R383) -/

/-- The precondition of a command (R381). -/
def precondition (c : Instr) (s : State) : Bool :=
  match c with
  | .gencode => s.treeValid
  | .emithdr => s.treeValid && !s.treeDec
  | .encode => s.codesValid
  | .nop | .clrfreq | .count | .wrfreq _ | .rdfreq _ | .build | .rdnode _ | .rdcode _ | .decode => true

/-- The acceptance actions of a command after its latches (R383). -/
def acceptActions (c : Instr) (s : State) : State :=
  match c with
  | .count => { s with treeValid := false, codesValid := false }
  | .encode => { s with emitted := 0, acc := [] }
  | .decode => decodeAccept s
  | .nop | .clrfreq | .wrfreq _ | .rdfreq _ | .build | .rdnode _ | .gencode | .rdcode _ | .emithdr => s

theorem runCommand_idle_cases {p : Bool} {a : State → State} {body : State → Result} (hb : s.busy = false)
    (h : runCommand c p a body s = .next t) :
    (∃ e, t = raiseError e { s with done := false }) ∨ (p = true ∧ t = a (latch c { s with done := false })) := by
  obtain ⟨-, hp, ht⟩ | ⟨-, -, ht⟩ | ⟨hb', -⟩ := runCommand_cases h
  · exact .inr ⟨hp, ht⟩
  · exact .inl ⟨_, ht⟩
  · simp [hb] at hb'

/-- Everything a command presented to an idle engine can lead to: an error, or its acceptance. -/
theorem exec_idle_cases (hb : s.busy = false) (h : exec c s = .next t) :
    (∃ e, t = raiseError e { s with done := false }) ∨
    (c.WellFormed ∧ precondition c s = true ∧ t = acceptActions c (latch c { s with done := false })) := by
  cases c
  case rdnode k =>
    by_cases hk : k = Config.noneIdx
    · simp only [exec, execRdnode, hk, refOfBits_none, hb] at h
      cases h
      exact .inl ⟨_, rfl⟩
    · cases hr : refOfBits k with
      | none => simp only [exec, execRdnode, hr, hb] at h; cases h; exact .inl ⟨_, rfl⟩
      | some r =>
        rw [exec, execRdnode_some hr] at h
        exact (runCommand_idle_cases hb h).imp_right fun ⟨hp, ht⟩ => ⟨hk, hp, ht⟩
  all_goals exact (runCommand_idle_cases hb h).imp_right fun ⟨hp, ht⟩ => ⟨trivial, hp, ht⟩

/-- All that a command presented to an idle engine can change. -/
def AcceptanceFrame (s t : State) : Prop :=
  t = { s with
    busy := t.busy, point := t.point, lop := t.lop, lidx := t.lidx, larg := t.larg, dstate := t.dstate,
    done := t.done, err := t.err, errcode := t.errcode, partialEnd := t.partialEnd, trunc := t.trunc,
    extra := t.extra, treeValid := t.treeValid, treeDec := t.treeDec, codesValid := t.codesValid,
    emitted := t.emitted, acc := t.acc }

theorem exec_acceptanceFrame (hb : s.busy = false) (h : exec c s = .next t) : AcceptanceFrame s t := by
  obtain ⟨e, rfl⟩ | ⟨-, -, rfl⟩ := exec_idle_cases hb h
  · rfl
  · cases c <;> rfl

/-! ### The bodies -/

/-- All that one micro-step of a running command can change (R33, R39, R40, R61, R62, R68). -/
def MicroStepFrame (c : Instr) (s t : State) : Prop :=
  match c with
  | .nop => t = { s with done := t.done, busy := t.busy, point := t.point }
  | .clrfreq | .wrfreq _ => t = { s with
      freq := t.freq, total := t.total, nsym := t.nsym, treeValid := t.treeValid, codesValid := t.codesValid,
      done := t.done, err := t.err, errcode := t.errcode, busy := t.busy, point := t.point }
  | .count => t = { s with
      freq := t.freq, total := t.total, nsym := t.nsym, inFifo := t.inFifo,
      done := t.done, err := t.err, errcode := t.errcode, busy := t.busy, point := t.point }
  | .rdfreq _ | .rdnode _ | .rdcode _ => t = { s with
      res0 := t.res0, res1 := t.res1, res2 := t.res2, done := t.done, busy := t.busy, point := t.point }
  | .build => t = { s with
      node := t.node, root := t.root, treeValid := t.treeValid, treeDec := t.treeDec, codesValid := t.codesValid,
      done := t.done, busy := t.busy, point := t.point }
  | .gencode => t = { s with
      code := t.code, codesValid := t.codesValid,
      done := t.done, err := t.err, errcode := t.errcode, busy := t.busy, point := t.point }
  | .emithdr => t = { s with
      outFifo := t.outFifo, outbytes := t.outbytes, done := t.done, busy := t.busy, point := t.point }
  | .encode => t = { s with
      inFifo := t.inFifo, outFifo := t.outFifo, outbytes := t.outbytes, emitted := t.emitted, acc := t.acc,
      done := t.done, err := t.err, errcode := t.errcode, busy := t.busy, point := t.point }
  | .decode => t = { s with
      node := t.node, root := t.root, treeValid := t.treeValid, dcount := t.dcount, dstate := t.dstate,
      walk := t.walk, dbyte := t.dbyte, dbits := t.dbits, next := t.next, pstack := t.pstack, seen := t.seen,
      inFifo := t.inFifo, outFifo := t.outFifo, outbytes := t.outbytes, emitted := t.emitted,
      partialEnd := t.partialEnd, trunc := t.trunc, extra := t.extra,
      done := t.done, err := t.err, errcode := t.errcode, busy := t.busy, point := t.point }

/-- A running single-step command is at its start and does all of its body (00_scope.md R14). -/
theorem runCommand_singleStep_cases {p : Bool} {a : State → State} {body : State → Result} (hb : s.busy = true)
    (h : runCommand c p a (singleStep body) s = .next t) : s.point = .accepted ∧ body s = .next t :=
  singleStep_cases ((runCommand_busy hb).symm.trans h)

theorem rdnode_busy_cases {k : Idx} (hb : s.busy = true) (h : exec (.rdnode k) s = .next t) :
    s.point = .accepted ∧ ∃ r, refOfBits k = some r ∧
      t = finish (setResult (nodeWord s.node[r]) (s.node[r]).weight 0 s) := by
  cases hr : refOfBits k with
  | none => simp [exec, execRdnode, hr, hb] at h
  | some r =>
    rw [exec, execRdnode_some hr] at h
    obtain ⟨hp, hbody⟩ := runCommand_singleStep_cases hb h
    exact ⟨hp, r, rfl, (Host.Outcome.next.inj hbody).symm⟩

/-- Everything GENCODE's body can go on with (42_code_table.md R265, R267). -/
theorem gencodeBody_next_cases (h : gencodeBody s = .next t) :
    (s.root = none ∧ t = finish { s with code := blankCodes, codesValid := true }) ∨
    ∃ r tr, s.root = some r ∧ wholeTree s.node r = some tr ∧ t = gencodePaths (leafPaths tr) s := by
  unfold gencodeBody at h
  split at h
  · next hr => cases h; exact .inl ⟨hr, rfl⟩
  · next r hr =>
    split at h
    · cases h
    · next tr htr => cases h; exact .inr ⟨r, tr, hr, htr, rfl⟩

/-- A running COUNT waits, starts, or takes one token (40_frequency.md R205). -/
theorem countBody_cases (h : countBody s = .next t) :
    t = s ∨ (s.point = .accepted ∧ t = goto .countPop s) ∨
    (s.point = .countPop ∧ ∃ k rest, s.inFifo = k :: rest ∧ t = countToken k { s with inFifo := rest }) := by
  unfold countBody at h
  split at h
  · next hpoint => cases h; exact .inr (.inl ⟨hpoint, rfl⟩)
  · next hpoint =>
    obtain ⟨-, hp⟩ | ⟨k, rest, hk, hp⟩ := popIn_cases s <;> simp only [hp] at h <;> cases h
    · exact .inl rfl
    · exact .inr (.inr ⟨hpoint, k, rest, hk, rfl⟩)
  · cases h

/-- A running EMITHDR waits, forms the header of the tree below ROOT, or pushes one of its bytes (43_bit_packer.md
R295). -/
theorem emithdrBody_cases (h : emithdrBody s = .next t) :
    t = s ∨
    (s.point = .accepted ∧ ∃ tree : Option Tree, t = hdrNext (headerBytes s.total tree) s ∧
      (s.root = none ∧ tree = none ∨ ∃ r, s.root = some r ∧ tree.isSome ∧ wholeTree s.node r = tree)) ∨
    (∃ b rest, s.point = .hdrPush b rest ∧ s.outFifo.length < s.outDepth.toNat ∧
      t = hdrNext rest { s with outFifo := s.outFifo ++ [b], outbytes := s.outbytes + 1 }) := by
  unfold emithdrBody at h
  split at h
  · next hpoint =>
    split at h
    · next hr => cases h; exact .inr (.inl ⟨hpoint, none, rfl, .inl ⟨hr, rfl⟩⟩)
    · next r hr =>
      split at h
      · cases h
      · next tr htr => cases h; exact .inr (.inl ⟨hpoint, some tr, rfl, .inr ⟨r, hr, rfl, htr⟩⟩)
  · next b rest hpoint =>
    obtain ⟨-, hp⟩ | ⟨hroom, hp⟩ := pushOut_cases b s <;> simp only [hp] at h <;> cases h
    · exact .inl rfl
    · exact .inr (.inr ⟨b, rest, hpoint, hroom, rfl⟩)
  · cases h

/-- A running ENCODE waits, starts, takes one token, or pushes a byte of ACC (43_bit_packer.md R305). -/
theorem encodeBody_cases (h : encodeBody s = .next t) :
    t = s ∨ (s.point = .accepted ∧ t = goto .encPop s) ∨
    (s.point = .encPop ∧ ∃ k rest, s.inFifo = k :: rest ∧ t = encToken k { s with inFifo := rest }) ∨
    (s.point = .encPush ∧ s.outFifo.length < s.outDepth.toNat ∧ t = encNext { s with
      outFifo := s.outFifo ++ [byteOf (s.acc.take 8)], outbytes := s.outbytes + 1, acc := s.acc.drop 8 }) ∨
    (s.point = .encFlush ∧ s.outFifo.length < s.outDepth.toNat ∧ t = finish { s with
      outFifo := s.outFifo ++ [byteOf (padByte s.acc)], outbytes := s.outbytes + 1, acc := [] }) := by
  unfold encodeBody at h
  split at h
  · next hpoint => cases h; exact .inr (.inl ⟨hpoint, rfl⟩)
  · next hpoint =>
    obtain ⟨-, hp⟩ | ⟨k, rest, hk, hp⟩ := popIn_cases s <;> simp only [hp] at h <;> cases h
    · exact .inl rfl
    · exact .inr (.inr (.inl ⟨hpoint, k, rest, hk, rfl⟩))
  · next hpoint =>
    obtain ⟨-, hp⟩ | ⟨hroom, hp⟩ := pushOut_cases (byteOf (s.acc.take 8)) s <;> simp only [hp] at h <;> cases h
    · exact .inl rfl
    · exact .inr (.inr (.inr (.inl ⟨hpoint, hroom, rfl⟩)))
  · next hpoint =>
    obtain ⟨-, hp⟩ | ⟨hroom, hp⟩ := pushOut_cases (byteOf (padByte s.acc)) s <;> simp only [hp] at h <;> cases h
    · exact .inl rfl
    · exact .inr (.inr (.inr (.inr ⟨hpoint, hroom, rfl⟩)))
  · cases h

/-- A running DECODE waits, starts, takes one token in one of its three phases, or pushes one symbol (44_decoder.md
R334 to R344). -/
theorem decodeBody_cases (h : decodeBody s = .next t) :
    t = s ∨ (s.point = .accepted ∧ t = goto (.decCount 0 0) s) ∨
    (∃ k n tok rest, s.point = .decCount k n ∧ s.inFifo = tok :: rest ∧
      t = decCountToken k n tok { s with inFifo := rest }) ∨
    (∃ pos tok rest, s.point = .decTree pos ∧ s.inFifo = tok :: rest ∧
      t = decTreeToken pos tok { s with inFifo := rest }) ∨
    (s.point = .decDegen ∧ ∃ r, s.root = some r ∧ s.outFifo.length < s.outDepth.toNat ∧
      t = degenPushed { s with outFifo := s.outFifo ++ [(s.node[r]).sym], outbytes := s.outbytes + 1 }) ∨
    (s.point = .decTok ∧ ∃ tok rest, s.inFifo = tok :: rest ∧
      decTokToken tok { s with inFifo := rest } = .next t) ∨
    (s.point = .decPush ∧ ∃ c, s.cur = some c ∧ s.outFifo.length < s.outDepth.toNat ∧
      walkBits s.dbits.toNat (endWalk { s with
        outFifo := s.outFifo ++ [(s.node[c]).sym], outbytes := s.outbytes + 1, emitted := s.emitted + 1 }) =
          .next t) := by
  obtain ⟨p, hpoint⟩ : ∃ p, s.point = p := ⟨_, rfl⟩
  cases p <;> simp only [decodeBody, hpoint] at h
  case accepted => cases h; exact .inr (.inl ⟨hpoint, rfl⟩)
  case decCount k n =>
    obtain ⟨-, hp⟩ | ⟨tok, rest, hk, hp⟩ := popIn_cases s <;> simp only [hp] at h <;> cases h
    · exact .inl rfl
    · exact .inr (.inr (.inl ⟨k, n, tok, rest, hpoint, hk, rfl⟩))
  case decTree pos =>
    obtain ⟨-, hp⟩ | ⟨tok, rest, hk, hp⟩ := popIn_cases s <;> simp only [hp] at h <;> cases h
    · exact .inl rfl
    · exact .inr (.inr (.inr (.inl ⟨pos, tok, rest, hpoint, hk, rfl⟩)))
  case decDegen =>
    split at h
    · cases h
    · next r hr =>
      obtain ⟨-, hp⟩ | ⟨hroom, hp⟩ := pushOut_cases (s.node[r]).sym s <;> simp only [hp] at h <;> cases h
      · exact .inl rfl
      · exact .inr (.inr (.inr (.inr (.inl ⟨hpoint, r, hr, hroom, rfl⟩))))
  case decTok =>
    obtain ⟨-, hp⟩ | ⟨tok, rest, hk, hp⟩ := popIn_cases s <;> simp only [hp] at h
    · cases h; exact .inl rfl
    · exact .inr (.inr (.inr (.inr (.inr (.inl ⟨hpoint, tok, rest, hk, h⟩)))))
  case decPush =>
    split at h
    · cases h
    · next c hc =>
      obtain ⟨-, hp⟩ | ⟨hroom, hp⟩ := pushOut_cases (s.node[c]).sym s <;> simp only [hp] at h
      · cases h; exact .inl rfl
      · exact .inr (.inr (.inr (.inr (.inr (.inr ⟨hpoint, c, hc, hroom, h⟩)))))
  all_goals cases h

/-! ### The frames

A frame of a state that differs from `s` in framed elements only is a frame of `s`, by definition. -/

theorem wrfreqBody_frame (b : Byte) (s : State) : MicroStepFrame (.wrfreq b) s (wrfreqBody b s) := by
  unfold wrfreqBody
  split <;> rfl

theorem gencodeBody_frame (h : gencodeBody s = .next t) : MicroStepFrame .gencode s t := by
  obtain ⟨-, rfl⟩ | ⟨_, tr, -, -, rfl⟩ := gencodeBody_next_cases h
  · rfl
  · unfold gencodePaths
    split <;> rfl

theorem countToken_frame (k : Token) (s : State) : MicroStepFrame .count s (countToken k s) := by
  cases k with
  | eos => rfl
  | data b =>
    simp only [countToken]
    split <;> rfl

theorem countBody_frame (h : countBody s = .next t) : MicroStepFrame .count s t := by
  obtain rfl | ⟨-, rfl⟩ | ⟨-, k, rest, -, rfl⟩ := countBody_cases h
  · rfl
  · rfl
  · exact countToken_frame k { s with inFifo := rest }

theorem hdrNext_frame (bytes : List Byte) (s : State) : MicroStepFrame .emithdr s (hdrNext bytes s) := by
  cases bytes <;> rfl

theorem emithdrBody_frame (h : emithdrBody s = .next t) : MicroStepFrame .emithdr s t := by
  obtain rfl | ⟨-, tree, rfl, -⟩ | ⟨b, rest, -, -, rfl⟩ := emithdrBody_cases h
  · rfl
  · exact hdrNext_frame _ s
  · exact hdrNext_frame rest { s with outFifo := _, outbytes := _ }

theorem encNext_frame (s : State) : MicroStepFrame .encode s (encNext s) := by
  unfold encNext
  split <;> rfl

theorem encToken_frame (k : Token) (s : State) : MicroStepFrame .encode s (encToken k s) := by
  cases k with
  | eos =>
    simp only [encToken]
    split <;> rfl
  | data b =>
    simp only [encToken]
    split
    · exact encNext_frame { s with acc := _, emitted := _ }
    · rfl

theorem encodeBody_frame (h : encodeBody s = .next t) : MicroStepFrame .encode s t := by
  obtain rfl | ⟨-, rfl⟩ | ⟨-, k, rest, -, rfl⟩ | ⟨-, -, rfl⟩ | ⟨-, -, rfl⟩ := encodeBody_cases h
  · rfl
  · rfl
  · exact encToken_frame k { s with inFifo := rest }
  · exact encNext_frame { s with outFifo := _, outbytes := _, acc := _ }
  · rfl

theorem startStreaming_frame (s : State) : MicroStepFrame .decode s (startStreaming s) := by
  simp only [startStreaming]
  split
  · rfl
  · split <;> rfl

theorem countDone_frame (n : Word) (s : State) : MicroStepFrame .decode s (countDone n s) := by
  unfold countDone
  dsimp only
  split
  · exact startStreaming_frame
      { s with dcount := _, node := _, root := _, dbits := _, next := _, pstack := _, seen := _ }
  · rfl

theorem decCountToken_frame (k : Fin 4) (n : Word) (tok : Token) (s : State) :
    MicroStepFrame .decode s (decCountToken k n tok s) := by
  cases tok with
  | eos => rfl
  | data b =>
    simp only [decCountToken]
    split
    · exact countDone_frame _ s
    · rfl

theorem decTreeToken_frame (pos : TreePos) (tok : Token) (s : State) :
    MicroStepFrame .decode s (decTreeToken pos tok s) := by
  cases tok with
  | eos => rfl
  | data b =>
    obtain ⟨_, _, _, _, _, _, _, _, _, _, _, _, _, e, -⟩ := headerBits_frame 8 pos { s with dbyte := b, dbits := 8 }
    rw [decTreeToken, e]
    rfl

theorem degenPushed_frame (s : State) : MicroStepFrame .decode s (degenPushed s) := by
  unfold degenPushed
  dsimp only
  split <;> rfl

theorem walkBits_microStepFrame {n : Nat} (h : walkBits n s = .next t) : MicroStepFrame .decode s t := by
  obtain ⟨_, _, _, -, rfl⟩ := walkBits_frame n h
  rfl

theorem decTokToken_frame {tok : Token} (h : decTokToken tok s = .next t) : MicroStepFrame .decode s t := by
  cases tok with
  | eos => cases h; rfl
  | data b =>
    simp only [decTokToken] at h
    split at h
    · cases h; rfl
    · exact (walkBits_microStepFrame h :)

theorem decodeBody_frame (h : decodeBody s = .next t) : MicroStepFrame .decode s t := by
  obtain rfl | ⟨-, rfl⟩ | ⟨k, n, tok, rest, -, -, rfl⟩ | ⟨pos, tok, rest, -, -, rfl⟩ | ⟨-, r, -, -, rfl⟩ |
    ⟨-, tok, rest, -, htok⟩ | ⟨-, c, -, -, hwalk⟩ := decodeBody_cases h
  · rfl
  · rfl
  · exact decCountToken_frame k n tok { s with inFifo := rest }
  · exact decTreeToken_frame pos tok { s with inFifo := rest }
  · exact degenPushed_frame { s with outFifo := _, outbytes := _ }
  · exact (decTokToken_frame htok :)
  · exact (walkBits_microStepFrame hwalk :)

theorem exec_microStepFrame (hb : s.busy = true) (h : exec c s = .next t) : MicroStepFrame c s t := by
  cases c
  case count => exact countBody_frame ((runCommand_busy hb).symm.trans h)
  case emithdr => exact emithdrBody_frame ((runCommand_busy hb).symm.trans h)
  case encode => exact encodeBody_frame ((runCommand_busy hb).symm.trans h)
  case decode => exact decodeBody_frame ((runCommand_busy hb).symm.trans h)
  case rdnode k => obtain ⟨-, r, -, rfl⟩ := rdnode_busy_cases hb h; rfl
  case gencode => exact gencodeBody_frame (runCommand_singleStep_cases hb h).2
  case wrfreq b => cases (runCommand_singleStep_cases hb h).2; exact wrfreqBody_frame b s
  all_goals cases (runCommand_singleStep_cases hb h).2; rfl

/-- What a command that goes on can change. -/
theorem exec_frame (h : exec c s = .next t) : AcceptanceFrame s t ∨ MicroStepFrame c s t := by
  cases hb : s.busy with
  | false => exact .inl (exec_acceptanceFrame hb h)
  | true => exact .inr (exec_microStepFrame hb h)

/-! ### The writers of each element -/

theorem exec_keeps_counts (h : exec c s = .next t) (hc : ¬(c = .clrfreq ∨ c = .count ∨ ∃ b, c = .wrfreq b)) :
    t.freq = s.freq ∧ t.total = s.total ∧ t.nsym = s.nsym := by
  cases c
  case clrfreq | count | wrfreq => simp at hc
  all_goals obtain hf | hf := exec_frame h <;>
    exact ⟨(congrArg State.freq hf :), (congrArg State.total hf :), (congrArg State.nsym hf :)⟩

theorem exec_keeps_tree (h : exec c s = .next t) (hc : ¬(c = .build ∨ c = .decode)) :
    t.node = s.node ∧ t.root = s.root := by
  cases c
  case build | decode => simp at hc
  all_goals obtain hf | hf := exec_frame h <;>
    exact ⟨(congrArg State.node hf :), (congrArg State.root hf :)⟩

theorem exec_keeps_code (h : exec c s = .next t) (hc : c ≠ .gencode) : t.code = s.code := by
  cases c
  case gencode => simp at hc
  all_goals obtain hf | hf := exec_frame h <;> exact (congrArg State.code hf :)

theorem exec_keeps_results (h : exec c s = .next t)
    (hc : ¬((∃ b, c = .rdfreq b) ∨ (∃ k, c = .rdnode k) ∨ ∃ b, c = .rdcode b)) :
    t.res0 = s.res0 ∧ t.res1 = s.res1 ∧ t.res2 = s.res2 := by
  cases c
  case rdfreq | rdnode | rdcode => simp at hc
  all_goals obtain hf | hf := exec_frame h <;>
    exact ⟨(congrArg State.res0 hf :), (congrArg State.res1 hf :), (congrArg State.res2 hf :)⟩

theorem exec_keeps_dcount (h : exec c s = .next t) (hc : c ≠ .decode) : t.dcount = s.dcount := by
  cases c
  case decode => simp at hc
  all_goals obtain hf | hf := exec_frame h <;> exact (congrArg State.dcount hf :)

theorem exec_keeps_output (h : exec c s = .next t) (hc : ¬(c = .emithdr ∨ c = .encode ∨ c = .decode)) :
    t.outFifo = s.outFifo ∧ t.outbytes = s.outbytes := by
  cases c
  case emithdr | encode | decode => simp at hc
  all_goals obtain hf | hf := exec_frame h <;>
    exact ⟨(congrArg State.outFifo hf :), (congrArg State.outbytes hf :)⟩

theorem exec_keeps_input (h : exec c s = .next t) (hc : ¬(c = .count ∨ c = .encode ∨ c = .decode)) :
    t.inFifo = s.inFifo := by
  cases c
  case count | encode | decode => simp at hc
  all_goals obtain hf | hf := exec_frame h <;> exact (congrArg State.inFifo hf :)

/-- The depths, the schedule and what the host writes, a command leaves alone (R56, R61). -/
theorem exec_keeps_host (h : exec c s = .next t) :
    t.arg = s.arg ∧ t.ieDone = s.ieDone ∧ t.ieErr = s.ieErr ∧ t.inovf = s.inovf ∧ t.cmdrej = s.cmdrej ∧
    t.inDepth = s.inDepth ∧ t.outDepth = s.outDepth ∧ t.sched = s.sched ∧ t.reads = s.reads := by
  cases c <;> obtain hf | hf := exec_frame h <;>
    exact ⟨(congrArg State.arg hf :), (congrArg State.ieDone hf :), (congrArg State.ieErr hf :),
      (congrArg State.inovf hf :), (congrArg State.cmdrej hf :), (congrArg State.inDepth hf :),
      (congrArg State.outDepth hf :), (congrArg State.sched hf :), (congrArg State.reads hf :)⟩

end Sys2Proof.Machine

namespace Sys2Proof.Proofs

open Sys2Proof.Machine

/-- Settles O56: the frames of acceptance and of each command's micro-step name every writer. -/
theorem onlyTheirCommandsWriteTheTables : Obligations.OnlyTheirCommandsWriteTheTables := by
  intro c s t h
  refine ⟨?counts, ?tree, ?code, ?results, ?dcount, ?output, ?input, exec_keeps_host h⟩
  case counts =>
    intro hne
    by_contra hc
    obtain ⟨hfreq, htotal, hnsym⟩ := exec_keeps_counts h hc
    simp [hfreq, htotal, hnsym] at hne
  case tree =>
    intro hne
    by_contra hc
    obtain ⟨hnode, hroot⟩ := exec_keeps_tree h hc
    simp [hnode, hroot] at hne
  case code => exact fun hne => by_contra fun hc => hne (exec_keeps_code h hc)
  case results =>
    intro hne
    by_contra hc
    obtain ⟨h0, h1, h2⟩ := exec_keeps_results h hc
    simp [h0, h1, h2] at hne
  case dcount => exact fun hne => by_contra fun hc => hne (exec_keeps_dcount h hc)
  case output =>
    intro hne
    by_contra hc
    obtain ⟨hout, hbytes⟩ := exec_keeps_output h hc
    simp [hout, hbytes] at hne
  case input => exact fun hne => by_contra fun hc => hne (exec_keeps_input h hc)

end Sys2Proof.Proofs
end

section
/-! PROOFS. 10_state.md: what the host's accesses reach (R31), the induction over the kinds of steps, and the
invariants of the counts (R33, R34), the FIFOs (R44) and the code table (R41); the STATUS word (R58). -/

namespace Sys2Proof.Machine

variable {s t u : State} {c : Instr}

/-! ### Host accesses (20_memory.md R107, 45_host_interface.md R396) -/

/-- What an event of the host can do to HUFF, a reset and an accepted command word apart: it changes what the host
writes and the FIFO contents, and no FIFO comes to exceed its depth. -/
structure HostEffect (s t : State) : Prop where
  frame : t = { s with
    arg := t.arg, ieDone := t.ieDone, ieErr := t.ieErr, outbytes := t.outbytes, done := t.done, err := t.err,
    errcode := t.errcode, partialEnd := t.partialEnd, trunc := t.trunc, extra := t.extra, inovf := t.inovf,
    cmdrej := t.cmdrej, inFifo := t.inFifo, outFifo := t.outFifo, sched := t.sched, reads := t.reads }
  input : s.inFifo.length ≤ s.inDepth.toNat → t.inFifo.length ≤ s.inDepth.toNat
  output : t.outFifo.length ≤ s.outFifo.length

/-- A host access also leaves the schedule alone, and sets no flag but INOVF. -/
structure AccessEffect (s t : State) : Prop extends HostEffect s t where
  sched : t.sched = s.sched
  done : t.done = true → s.done = true
  err : t.err = true → s.err = true
  partialEnd : t.partialEnd = true → s.partialEnd = true
  trunc : t.trunc = true → s.trunc = true
  extra : t.extra = true → s.extra = true
  cmdrej : t.cmdrej = true → s.cmdrej = true

theorem accessEffect_refl (s : State) : AccessEffect s s :=
  ⟨⟨rfl, id, le_rfl⟩, rfl, id, id, id, id, id, id⟩

theorem hostRead_accessEffect (off : BitVec 12) (s : State) : AccessEffect s (hostRead off s) := by
  unfold hostRead
  split
  · exact ⟨⟨rfl, id, le_rfl⟩, rfl, id, id, id, id, id, id⟩
  · unfold readEffect
    split
    · exact ⟨⟨rfl, id, by simp⟩, rfl, id, id, id, id, id, id⟩
    · exact ⟨⟨rfl, id, le_rfl⟩, rfl, id, id, id, id, id, id⟩

theorem ctrlWrite_accessEffect {v : Word} (hv : ¬v.getLsbD 0 = true) (s : State) : AccessEffect s (ctrlWrite v s) := by
  rw [ctrlWrite, if_neg hv]
  refine ⟨⟨rfl, fun h => ?_, ?_⟩, rfl, id, id, id, id, id, id⟩
  · dsimp only
    split
    · exact Nat.zero_le _
    · exact h
  · dsimp only
    split
    · exact Nat.zero_le _
    · exact le_rfl

theorem statusClear_accessEffect (v : Word) (s : State) : AccessEffect s (statusClear v s) := by
  have falls {a b : Bool} (h : (a && b) = true) : a = true := (Bool.and_eq_true_iff.mp h).1
  unfold statusClear
  split
  · exact ⟨⟨rfl, id, le_rfl⟩, rfl, falls, fun h => absurd h Bool.false_ne_true, falls, falls, falls, falls⟩
  · exact ⟨⟨rfl, id, le_rfl⟩, rfl, falls, id, falls, falls, falls, falls⟩

theorem dinWrite_accessEffect (v : Word) (s : State) : AccessEffect s (dinWrite v s) := by
  unfold dinWrite
  split
  · next hroom =>
    exact ⟨⟨rfl, fun _ => by simpa using hroom, le_rfl⟩, rfl, id, id, id, id, id, id⟩
  · exact ⟨⟨rfl, id, le_rfl⟩, rfl, id, id, id, id, id, id⟩

theorem plainWrite_cases (h : PlainWrite s t) : AccessEffect s t ∨ t = resetHuff s := by
  obtain rfl | ⟨v, rfl⟩ | ⟨v, rfl⟩ | ⟨v, rfl⟩ | ⟨v, rfl⟩ | rfl := h
  · exact .inl (accessEffect_refl _)
  · by_cases hv : v.getLsbD 0 = true
    · exact .inr (if_pos hv)
    · exact .inl (ctrlWrite_accessEffect hv s)
  · exact .inl (statusClear_accessEffect v s)
  · exact .inl ⟨⟨rfl, id, le_rfl⟩, rfl, id, id, id, id, id, id⟩
  · exact .inl (dinWrite_accessEffect v s)
  · exact .inl ⟨⟨rfl, id, le_rfl⟩, rfl, id, id, id, id, id, id⟩

theorem offset_of_regAt_ctrl {off : BitVec 12} (h : regAt off = some .ctrl) : off = 0x0C := by
  unfold regAt at h
  split at h
  case h_4 hoff => exact BitVec.eq_of_toNat_eq hoff
  all_goals cases h

theorem offset_of_regAt_cmd {off : BitVec 12} (h : regAt off = some .cmd) : off = 0x14 := by
  unfold regAt at h
  split at h
  case h_6 hoff => exact BitVec.eq_of_toNat_eq hoff
  all_goals cases h

theorem hostWrite_accessEffect {off : BitVec 12} {v : Word} (hcmd : off ≠ 0x14)
    (hreset : ¬(off = 0x0C ∧ v.getLsbD 0 = true)) (h : hostWrite off v s = .next t) : AccessEffect s t := by
  unfold hostWrite at h
  split at h
  · cases h; exact accessEffect_refl s
  · next r hr =>
    cases r
    case cmd => exact absurd (offset_of_regAt_cmd hr) hcmd
    case ctrl => cases h; exact ctrlWrite_accessEffect (fun hv => hreset ⟨offset_of_regAt_ctrl hr, hv⟩) s
    case status => cases h; exact statusClear_accessEffect v s
    case din => cases h; exact dinWrite_accessEffect v s
    case arg | outbytes => cases h; exact ⟨⟨rfl, id, le_rfl⟩, rfl, id, id, id, id, id, id⟩
    all_goals cases h; exact accessEffect_refl s

theorem aligned32_next {width : Nat} {off : BitVec 12} {r : Result} (h : aligned32 width off r = .next t) :
    r = .next t := by
  unfold aligned32 at h
  split at h
  · cases h
  · split at h
    · cases h
    · exact h

/-! ### The induction over the kinds of steps -/

/-- What a command word presented to an idle engine leads to: an error, or the acceptance of its command (R380). -/
def Presented (s t : State) : Prop :=
  (∃ e, t = raiseError e { s with done := false }) ∨
  ∃ c : Instr, c.WellFormed ∧ precondition c s = true ∧ t = acceptActions c (latch c { s with done := false })

theorem Presented.frame (h : Presented s t) : AcceptanceFrame s t := by
  obtain ⟨e, rfl⟩ | ⟨c, -, -, rfl⟩ := h
  · rfl
  · cases c <;> rfl

/-- Everything a step can do, after the host's part of it: a predicate that no host access, no reset, no command
word and no micro-step breaks is kept by every step. -/
theorem step_induction {P : State → Prop} (hhost : ∀ s t, P s → HostEffect s t → P t)
    (hreset : ∀ s, P s → P (resetHuff s)) (hidle : ∀ s t, P s → s.busy = false → Presented s t → P t)
    (hmicro : ∀ c s t, P s → Runs c s → exec c s = .next t → P t) (hs : P s) (h : step s = .next t) : P t := by
  obtain ⟨u, hu, hstep⟩ := step_cases h
  have hPu : P u := by
    obtain rfl | ⟨rest, rfl⟩ := hu
    · exact hs
    · exact hhost s _ hs ⟨rfl, id, le_rfl⟩
  obtain ⟨-, rfl⟩ | ⟨c, hrun, hexec⟩ | ⟨off, rfl⟩ | hplain | rfl | rfl | ⟨hb, -, rfl⟩ | ⟨w, c, hb, -, -, hexec⟩ :=
    hstep
  · exact hPu
  · exact hmicro c u t hPu hrun hexec
  · exact hhost u _ hPu (hostRead_accessEffect off u).toHostEffect
  · obtain heffect | rfl := plainWrite_cases hplain
    · exact hhost u t hPu heffect.toHostEffect
    · exact hreset u hPu
  · exact hreset u hPu
  · exact hhost u _ hPu ⟨rfl, id, le_rfl⟩
  · exact hidle u _ hPu hb (.inl ⟨_, rfl⟩)
  · exact hidle u t hPu hb ((exec_idle_cases hb hexec).imp_right fun hacc => ⟨c, hacc⟩)

/-! ### FREQ, TOTAL and NSYM (R33, R34) -/

theorem toList_getElem_symGet {α : Type} (f : SymTable α) (b : Byte) (h : b.toNat < f.toList.length) :
    f.toList[b.toNat] = symGet f b := by simp [symGet]

/-- Writing an entry exchanges its part of the sum. -/
theorem freqSum_symPut (f : SymTable Word) (b : Byte) (v : Word) :
    freqSum (symPut f b v) + (symGet f b).toNat = freqSum f + v.toNat := by
  have hsum (w : Word) := List.sum_set (f.toList.map BitVec.toNat) b.toNat w.toNat
  have hput := hsum v
  have hself := hsum (symGet f b)
  simp only [← List.map_set, List.length_map, Vector.length_toList, b.isLt, if_true] at hput hself
  have hget : f.toList.set b.toNat (symGet f b) = f.toList := by
    rw [← toList_getElem_symGet f b (by simpa using b.isLt), List.set_getElem_self]
  rw [hget] at hself
  rw [freqSum, freqSum, symPut, Vector.toList_set, hput, hself]
  omega

theorem freqSum_ge (f : SymTable Word) (b : Byte) : (symGet f b).toNat ≤ freqSum f :=
  List.single_le_sum (by simp) _ (List.mem_map_of_mem (by simp [symGet]))

theorem freqCount_le (f : SymTable Word) : freqCount f ≤ 256 := by
  simpa [freqCount] using List.countP_le_length (p := fun v => decide (v ≠ 0)) (l := f.toList)

/-- Writing a non-zero entry counts it, unless it was counted before. -/
theorem freqCount_symPut (f : SymTable Word) (b : Byte) {v : Word} (hv : v ≠ 0) :
    freqCount (symPut f b v) = freqCount f + if symGet f b = 0 then 1 else 0 := by
  have hb : b.toNat < f.toList.length := by simpa using b.isLt
  have hget := toList_getElem_symGet f b hb
  rw [freqCount, symPut, Vector.toList_set, List.countP_set hb, hget, ← freqCount, if_pos (decide_eq_true hv)]
  by_cases h0 : symGet f b = 0
  · simp [h0]
  · have hpos : 0 < freqCount f :=
      List.countP_pos_iff.mpr ⟨_, List.getElem_mem hb, by simpa [hget] using h0⟩
    rw [if_neg h0, if_pos (decide_eq_true h0)]
    omega

/-- The invariant is one of the three registers. -/
theorem State.CountsInv.congr (hs : s.CountsInv) (hfreq : t.freq = s.freq) (htotal : t.total = s.total)
    (hnsym : t.nsym = s.nsym) : t.CountsInv :=
  ⟨by rw [hfreq, htotal, hs.total], by rw [hfreq, hnsym, hs.nsym]⟩

/-- The empty table. -/
theorem countsInv_zero (hfreq : t.freq = Vector.replicate 256 0) (htotal : t.total = 0) (hnsym : t.nsym = 0) :
    t.CountsInv := by
  constructor
  · simp only [hfreq, htotal, freqSum, Vector.toList_replicate, List.map_replicate, List.sum_replicate]
    rfl
  · simp only [hfreq, hnsym, freqCount, Vector.toList_replicate, List.countP_replicate]
    rfl

theorem toNat_add_one {n : Nat} {x : BitVec n} (h : x.toNat + 1 < 2 ^ n) : (x + 1).toNat = x.toNat + 1 := by
  simp [BitVec.toNat_add, Nat.mod_eq_of_lt h]

/-- A counted byte: neither its entry, nor TOTAL, nor NSYM wraps (40_frequency.md R205). -/
theorem countToken_countsInv (k : Token) (hs : s.CountsInv) : (countToken k s).CountsInv := by
  cases k with
  | eos => exact hs.congr rfl rfl rfl
  | data b =>
    obtain ⟨htotal, hnsym⟩ := hs
    unfold countToken
    dsimp only
    split
    · exact ⟨htotal, hnsym⟩
    · next hmax =>
      have hroom : s.total.toNat + 1 < 2 ^ 32 := by
        have hne : s.total.toNat ≠ 0xFFFFFFFF := fun e => hmax (BitVec.eq_of_toNat_eq e)
        omega
      have hentry := freqSum_ge s.freq b
      have hinc : (symGet s.freq b + 1).toNat = (symGet s.freq b).toNat + 1 := toNat_add_one (by omega)
      constructor
      · have hsum := freqSum_symPut s.freq b (symGet s.freq b + 1)
        dsimp only
        rw [toNat_add_one hroom]
        omega
      · have hle := freqCount_le s.freq
        have hv : symGet s.freq b + 1 ≠ 0 := fun e => Nat.succ_ne_zero _ (hinc.symm.trans (congrArg BitVec.toNat e))
        dsimp only
        rw [freqCount_symPut s.freq b hv]
        split
        · rw [toNat_add_one (by omega), hnsym]
        · exact hnsym

theorem wrfreqBody_countsInv (b : Byte) (hs : s.CountsInv) : (wrfreqBody b s).CountsInv := by
  unfold wrfreqBody
  split
  · next hle =>
    have hcount := freqCount_le (symPut s.freq b s.larg)
    constructor
    · exact (Nat.mod_eq_of_lt (Nat.lt_of_le_of_lt hle (by decide))).symm
    · exact (Nat.mod_eq_of_lt (Nat.lt_of_le_of_lt hcount (by decide))).symm
  · exact hs.congr rfl rfl rfl

theorem countBody_countsInv (hs : s.CountsInv) (h : countBody s = .next t) : t.CountsInv := by
  obtain rfl | ⟨-, rfl⟩ | ⟨-, k, rest, -, rfl⟩ := countBody_cases h
  · exact hs
  · exact hs.congr rfl rfl rfl
  · exact countToken_countsInv k (hs.congr rfl rfl rfl)

theorem exec_countsInv (hs : s.CountsInv) (hb : s.busy = true) (h : exec c s = .next t) : t.CountsInv := by
  by_cases hc : c = .clrfreq ∨ c = .count ∨ ∃ b, c = .wrfreq b
  · obtain rfl | rfl | ⟨b, rfl⟩ := hc
    · cases (runCommand_singleStep_cases hb h).2
      exact countsInv_zero rfl rfl rfl
    · exact countBody_countsInv hs ((runCommand_busy hb).symm.trans h)
    · cases (runCommand_singleStep_cases hb h).2
      exact wrfreqBody_countsInv b hs
  · obtain ⟨hfreq, htotal, hnsym⟩ := exec_keeps_counts h hc
    exact hs.congr hfreq htotal hnsym

/-! ### The FIFOs (R44, R56) -/

theorem AtMostOneFifoOperation.fifoInv (h : AtMostOneFifoOperation s t) (hin : t.inDepth = s.inDepth)
    (hout : t.outDepth = s.outDepth) (hs : s.FifoInv) : t.FifoInv := by
  obtain ⟨hi, ho⟩ := hs
  obtain ⟨ei, eo, -⟩ | ⟨k, ei, eo, -⟩ | ⟨b, hroom, eo, -, ei⟩ := h
  · exact ⟨by rw [ei, hin]; exact hi, by rw [eo, hout]; exact ho⟩
  · rw [ei, List.length_cons] at hi
    exact ⟨by rw [hin]; omega, by rw [eo, hout]; exact ho⟩
  · refine ⟨by rw [ei, hin]; exact hi, ?_⟩
    rw [eo, hout, List.length_append, List.length_singleton]
    exact hroom

/-- The FIFOs are within the depths, and these are the given ones (R44, R56). -/
def FifosWithin (d : Config.Depths) (s : State) : Prop :=
  s.FifoInv ∧ s.inDepth = d.inDepth ∧ s.outDepth = d.outDepth

theorem step_fifosWithin {d : Config.Depths} (hs : FifosWithin d s) (h : step s = .next t) : FifosWithin d t := by
  refine step_induction ?host ?reset ?idle ?micro hs h
  case host =>
    rintro s t ⟨⟨hi, ho⟩, hd⟩ ⟨hf, hin, hout⟩
    have ei : t.inDepth = s.inDepth := (congrArg State.inDepth hf :)
    have eo : t.outDepth = s.outDepth := (congrArg State.outDepth hf :)
    exact ⟨⟨ei ▸ hin hi, eo ▸ hout.trans ho⟩, ei ▸ eo ▸ hd⟩
  case reset => exact fun s hs => ⟨⟨Nat.zero_le _, Nat.zero_le _⟩, hs.2⟩
  case idle =>
    rintro s t ⟨⟨hi, ho⟩, hd⟩ - hp
    rw [hp.frame]
    exact ⟨⟨hi, ho⟩, hd⟩
  case micro =>
    rintro c s t ⟨hs, hd⟩ ⟨hb, -⟩ hexec
    obtain ⟨-, -, -, -, -, ei, eo, -⟩ := exec_keeps_host hexec
    exact ⟨(exec_atMostOneFifoOperation hb hexec).fifoInv ei eo hs, ei ▸ eo ▸ hd⟩

/-! ### STATUS (R51, R58) -/

theorem irq_iff (s : State) :
    s.irq = true ↔ (s.done = true ∧ s.ieDone = true) ∨ (s.err = true ∧ s.ieErr = true) := by
  simp [State.irq]

theorem degen_iff (s : State) :
    s.degen = true ↔ s.treeValid = true ∧ ∃ r, s.root = some r ∧ (s.node[r]).leaf = true := by
  unfold State.degen
  cases s.root <;> simp

theorem toBits_eq_iff (d e : DState) : d.toBits = e.toBits ↔ d = e := by
  cases d <;> cases e <;> decide

/-- The one-bit fields. -/
theorem statusWord_flags (s : State) :
    (statusWord s).getLsbD 0 = s.busy ∧ (statusWord s).getLsbD 1 = s.done ∧ (statusWord s).getLsbD 2 = s.err ∧
    (statusWord s).getLsbD 3 = s.irq ∧ (statusWord s).getLsbD 8 = s.treeValid ∧
    (statusWord s).getLsbD 9 = s.codesValid ∧ (statusWord s).getLsbD 10 = s.degen ∧
    (statusWord s).getLsbD 11 = s.partialEnd ∧ (statusWord s).getLsbD 12 = s.trunc ∧
    (statusWord s).getLsbD 13 = s.extra ∧ (statusWord s).getLsbD 14 = s.inovf ∧
    (statusWord s).getLsbD 15 = s.cmdrej ∧ (statusWord s).getLsbD 18 = s.treeDec := by
  simp only [statusWord, BitVec.getLsbD_append]
  simp

/-- A field of several bits, read bit by bit. -/
theorem statusWord_field {lo n : Nat} {v : BitVec n} (h : ∀ i < n, (statusWord s).getLsbD (lo + i) = v.getLsbD i) :
    (statusWord s).extractLsb' lo n = v := by
  apply BitVec.eq_of_getLsbD_eq
  intro i hi
  rw [BitVec.getLsbD_extractLsb', h i hi, decide_eq_true hi, Bool.true_and]

theorem statusWord_errcode (s : State) : (statusWord s).extractLsb' 4 4 = s.errcode := by
  refine statusWord_field fun i hi => ?_
  simp only [statusWord, BitVec.getLsbD_append]
  interval_cases i <;> simp

theorem statusWord_dstate (s : State) : (statusWord s).extractLsb' 16 2 = s.dstate.toBits := by
  refine statusWord_field fun i hi => ?_
  simp only [statusWord, BitVec.getLsbD_append]
  interval_cases i <;> simp

theorem statusWord_reserved (s : State) : (statusWord s).extractLsb' 19 13 = 0 := by
  refine statusWord_field fun i hi => ?_
  simp only [statusWord, BitVec.getLsbD_append]
  interval_cases i <;> simp

end Sys2Proof.Machine

namespace Sys2Proof.Proofs

open Sys2Proof.Machine

/-- Settles O57, by the register the access reaches: only CTRL's bit 0 and CMD do more than an access. -/
theorem hostAccessesReachTheEngineOnlyByCmdAndReset : Obligations.HostAccessesReachTheEngineOnlyByCmdAndReset := by
  intro s t e rest hsched h he
  rw [step_cons hsched] at h
  have heffect : AccessEffect { s with sched := rest } t := by
    obtain ⟨width, off, rfl⟩ | ⟨width, off, v, rfl, hcmd, hreset⟩ := he
    · cases aligned32_next h
      exact hostRead_accessEffect off _
    · exact hostWrite_accessEffect hcmd hreset (aligned32_next h)
  obtain ⟨⟨hf, -, -⟩, hrest, hdone, herr, hpartial, htrunc, hextra, hrej⟩ := heffect
  rw [hrest] at hf
  exact ⟨hf, hdone, herr, hpartial, htrunc, hextra, hrej⟩

/-- Settles O47: only CLRFREQ, COUNT and WRFREQ write the three registers, and their sums and counts fit. -/
theorem stepKeepsTotalTheSumOfFreq : Obligations.StepKeepsTotalTheSumOfFreq := by
  intro s t hs h
  refine step_induction ?host ?reset ?idle ?micro hs h
  case host => exact fun s t hs he => he.frame ▸ hs.congr rfl rfl rfl
  case reset => exact fun s _ => countsInv_zero rfl rfl rfl
  case idle => exact fun s t hs _ hp => hp.frame ▸ hs.congr rfl rfl rfl
  case micro => exact fun c s t hs hrun hexec => exec_countsInv hs hrun.1 hexec

/-- Settles O49: a micro-step does at most one FIFO operation, a push only with room, and so does a host access. -/
theorem stepKeepsFifosWithinTheirDepths : Obligations.StepKeepsFifosWithinTheirDepths :=
  fun s _ hs h => step_fifosWithin (d := ⟨s.inDepth, s.outDepth⟩) ⟨hs, rfl, rfl⟩ h

/-- Settles O40: STATUS is the fields of R58 side by side, with DEGEN and IRQ as R51 derives them. -/
theorem statusWordHasTheFieldsOfTheTable : Obligations.StatusWordHasTheFieldsOfTheTable := by
  intro s
  obtain ⟨hbusy, hdone, herr, hirq, htree, hcodes, hdegen, hpartial, htrunc, hextra, hinovf, hrej, hdec⟩ :=
    statusWord_flags s
  dsimp only
  rw [hirq, hdegen, statusWord_dstate]
  exact ⟨hbusy, hdone, herr, irq_iff s, statusWord_errcode s, htree, hcodes, degen_iff s, hpartial, htrunc, hextra,
    hinovf, hrej, toBits_eq_iff _ .idle, toBits_eq_iff _ .readingTree, toBits_eq_iff _ .streamingBits,
    toBits_eq_iff _ .done, hdec, statusWord_reserved s⟩

end Sys2Proof.Proofs
end

section
/-! PROOFS. 10_state.md: the latches of a running command (R46), and CODES_VALID (R41). -/

namespace Sys2Proof.Machine

variable {s t u : State} {c d : Instr}

/-! ### The latches (R46) -/

theorem decodeWord_encodeWord (hc : c.WellFormed) : decodeWord (encodeWord c) = .ok c := by
  obtain ⟨hrsv, hop, hidx⟩ := Laws.WordFields.commandWord_fields (indexOf c) (opcodeOf c)
  change rsvField (encodeWord c) = 0 at hrsv
  change opField (encodeWord c) = opcodeOf c at hop
  change idxField (encodeWord c) = indexOf c at hidx
  unfold decodeWord
  rw [hop]
  cases c
  case rdnode i => exact decodeNode_eq_ok.mpr ⟨hrsv, hidx ▸ hc, congrArg Instr.rdnode hidx⟩
  case wrfreq b | rdfreq b | rdcode b =>
    refine decodeSymbol_eq_ok.mpr ⟨hrsv, ?_, ?_⟩ <;> rw [hidx]
    · simp [indexOf]
    · exact congrArg _ (BitVec.eq_of_toNat_eq (by simp [indexOf]; omega))
  all_goals exact decodeNoIndex_eq_ok.mpr ⟨hrsv, hidx, rfl⟩

/-- An accepted command is the one in the latches. -/
theorem decodeWord_latched (hc : c.WellFormed) (s : State) :
    decodeWord (latchedWord (acceptActions c (latch c s))) = .ok c := by
  obtain ⟨-, hop, hidx⟩ := Laws.WordFields.commandWord_fields (indexOf c) (opcodeOf c)
  have hword : latchedWord (latch c s) = encodeWord c := by
    rw [latchedWord, latch_lop, latch_lidx, encodeWord, hop, hidx]
  have hkeep : latchedWord (acceptActions c (latch c s)) = latchedWord (latch c s) := by cases c <;> rfl
  rw [hkeep, hword, decodeWord_encodeWord hc]

theorem exec_keeps_latches (hb : s.busy = true) (h : exec c s = .next t) : latchedWord t = latchedWord s := by
  have hf := exec_microStepFrame hb h
  have hlatch : t.lop = s.lop ∧ t.lidx = s.lidx := by
    cases c <;> exact ⟨(congrArg State.lop hf :), (congrArg State.lidx hf :)⟩
  rw [latchedWord, latchedWord, hlatch.1, hlatch.2]

theorem Runs.unique (h : Runs c s) (h' : Runs d s) : d = c :=
  Except.ok.inj (h'.2.symm.trans h.2)

/-- A command that still runs after a micro-step is the one that did it. -/
theorem Runs.of_exec (hrun : Runs c s) (h : exec c s = .next t) (ht : Runs d t) : d = c :=
  hrun.unique ⟨hrun.1, exec_keeps_latches hrun.1 h ▸ ht.2⟩

/-- The command that runs after an acceptance is the accepted one. -/
theorem Runs.of_accept (hc : c.WellFormed) (ht : Runs d (acceptActions c (latch c s))) : d = c :=
  Except.ok.inj (ht.2.symm.trans (decodeWord_latched hc s))

/-! ### CODES_VALID (R41) -/

/-- What CODES_VALID = 1 means: a valid tree, and CODE as GENCODE writes it for that tree. -/
def CodesMatch (s : State) : Prop :=
  s.codesValid = true → s.treeValid = true ∧ (s.root = none → s.code = blankCodes) ∧
    ∀ r, s.root = some r → ∃ t, wholeTree s.node r = some t ∧ s.code = fillCodes (leafPaths t)

theorem codesMatch_of_invalid (h : s.codesValid = false) : CodesMatch s := fun hv => by simp [h] at hv

theorem codesMatchInv_iff : s.CodesMatchInv ↔
    (Runs .gencode s → s.treeValid = true) ∧ (Runs .decode s → s.codesValid = false) ∧ CodesMatch s := by
  constructor
  · rintro ⟨hgen, hdec, htree, hempty, hderived⟩
    exact ⟨hgen, hdec, fun hv => ⟨htree hv, hempty hv, hderived hv⟩⟩
  · rintro ⟨hgen, hdec, hmatch⟩
    exact ⟨hgen, hdec, fun hv => (hmatch hv).1, fun hv => (hmatch hv).2.1, fun hv => (hmatch hv).2.2⟩

theorem codesMatch_of_stopped (hb : s.busy = false) (h : CodesMatch s) : s.CodesMatchInv :=
  codesMatchInv_iff.mpr ⟨fun hr => absurd hr.1 (by simp [hb]), fun hr => absurd hr.1 (by simp [hb]), h⟩

/-- GENCODE either writes the table of the tree or leaves CODES_VALID 0 (42_code_table.md R265). -/
theorem gencodeBody_codesMatch (hv : s.treeValid = true) (h : gencodeBody s = .next t) : CodesMatch t := by
  obtain ⟨hr, rfl⟩ | ⟨r, tr, hr, htr, rfl⟩ := gencodeBody_next_cases h
  · exact fun _ => ⟨hv, fun _ => rfl, fun r' hr' => by simp [hr] at hr'⟩
  · unfold gencodePaths
    split
    · exact codesMatch_of_invalid rfl
    · refine fun _ => ⟨hv, fun hr' => by simp [hr] at hr', fun r' hr' => ⟨tr, ?_, rfl⟩⟩
      obtain rfl : r = r' := Option.some.inj (hr.symm.trans hr')
      exact htr

theorem wrfreqBody_codesMatch (b : Byte) (h : CodesMatch s) : CodesMatch (wrfreqBody b s) := by
  unfold wrfreqBody
  split
  · exact codesMatch_of_invalid rfl
  · exact h

/-- A micro-step of GENCODE leaves TREE_VALID and one of DECODE leaves CODES_VALID. -/
theorem exec_keeps_validity (hb : s.busy = true) (h : exec c s = .next t) :
    (c = .gencode → t.treeValid = s.treeValid) ∧ (c = .decode → t.codesValid = s.codesValid) := by
  have hf := exec_microStepFrame hb h
  constructor <;> rintro rfl
  · exact (congrArg State.treeValid hf :)
  · exact (congrArg State.codesValid hf :)

theorem exec_codesMatch (hs : s.CodesMatchInv) (hrun : Runs c s) (h : exec c s = .next t) : CodesMatch t := by
  obtain ⟨hgen, hdec, hmatch⟩ := codesMatchInv_iff.mp hs
  have hf := exec_microStepFrame hrun.1 h
  cases c
  case gencode => exact gencodeBody_codesMatch (hgen hrun) (runCommand_singleStep_cases hrun.1 h).2
  case decode => exact codesMatch_of_invalid (((exec_keeps_validity hrun.1 h).2 rfl).trans (hdec hrun))
  case wrfreq b => cases (runCommand_singleStep_cases hrun.1 h).2; exact wrfreqBody_codesMatch b hmatch
  case build | clrfreq => cases (runCommand_singleStep_cases hrun.1 h).2; exact codesMatch_of_invalid rfl
  all_goals rw [hf]; exact hmatch

theorem exec_codesMatchInv (hs : s.CodesMatchInv) (hrun : Runs c s) (h : exec c s = .next t) : t.CodesMatchInv := by
  obtain ⟨htree, hcodes⟩ := exec_keeps_validity hrun.1 h
  refine codesMatchInv_iff.mpr ⟨fun ht => ?_, fun ht => ?_, exec_codesMatch hs hrun h⟩
  · obtain rfl := hrun.of_exec h ht
    exact (htree rfl).trans (hs.gencode hrun)
  · obtain rfl := hrun.of_exec h ht
    exact (hcodes rfl).trans (hs.decode hrun)

theorem Presented.codesMatchInv (hs : s.CodesMatchInv) (h : Presented s t) : t.CodesMatchInv := by
  have hmatch := (codesMatchInv_iff.mp hs).2.2
  obtain ⟨e, rfl⟩ | ⟨c, hc, hp, rfl⟩ := h
  · exact codesMatch_of_stopped rfl hmatch
  · refine codesMatchInv_iff.mpr ⟨fun ht => ?_, fun ht => ?_, ?_⟩
    · obtain rfl := Runs.of_accept hc ht
      exact hp
    · obtain rfl := Runs.of_accept hc ht
      rfl
    · cases c
      case count | decode => exact codesMatch_of_invalid rfl
      all_goals exact hmatch

end Sys2Proof.Machine

namespace Sys2Proof.Proofs

open Sys2Proof.Machine

/-- Settles O54: GENCODE alone sets CODES_VALID, for the tree in NODE, and what writes NODE clears it. -/
theorem stepKeepsCodesMatchedToTheTree : Obligations.StepKeepsCodesMatchedToTheTree := by
  intro s t hs h
  refine step_induction ?host ?reset ?idle ?micro hs h
  case host =>
    rintro s t hs ⟨hf, -, -⟩
    rw [hf]
    exact ⟨hs.gencode, hs.decode, hs.tree, hs.empty, hs.derived⟩
  case reset => exact fun s _ => codesMatch_of_stopped rfl (codesMatch_of_invalid rfl)
  case idle => exact fun s t hs _ hp => hp.codesMatchInv hs
  case micro => exact fun c s t hs hrun hexec => exec_codesMatchInv hs hrun hexec

end Sys2Proof.Proofs
end

section
/-! PROOFS. 41_tree_builder.md R240, for 10_state.md R38: the tree BUILD makes is complete. -/

namespace Sys2Proof.Machine

variable {a : Arena} {k : Fin 511} {set : List (Fin 511)} {f : SymTable Word} {b : Byte}

/-! ### Records of the arena -/

theorem arena_set_get (a : Arena) (i j : Fin 511) (n : Node) :
    (a.set i n)[j] = if i = j then n else a[j] := by
  simp [Vector.getElem_set, Fin.ext_iff]

/-- A tree that is read does not visit an unused record, so writing one leaves it. -/
theorem treeAt_set_unused {m : Nat} {i : Fin 511} {n : Node} {t : Tree} (hk : (a[k]).used = false)
    (h : treeAt m a i = some t) : treeAt m (a.set k n) i = some t := by
  induction m generalizing i t with
  | zero => simp [treeAt] at h
  | succ m ih =>
    have keeps {j : Fin 511} (hj : (a[j]).used = true) : (a.set k n)[j] = a[j] := by
      have hne : k ≠ j := by
        rintro rfl
        exact Bool.false_ne_true (hk.symm.trans hj)
      rw [arena_set_get, if_neg hne]
    obtain ⟨hu, ⟨hl, rfl⟩ | ⟨hl, l, r, tl, tr, el, er, htl, htr, rfl⟩⟩ := treeAt_cases h
    · have e := keeps hu
      rw [← e] at hu hl ⊢
      exact treeAt_leaf hu hl
    · have e := keeps hu
      rw [← e] at hu hl el er
      exact treeAt_node hu hl el er (ih htl) (ih htr)

/-! ### Selection (R234) -/

theorem leastKey_mem (a : Arena) (i : Fin 511) (rest : List (Fin 511)) : leastKey a i rest ∈ i :: rest := by
  induction rest generalizing i with
  | nil => simp [leastKey]
  | cons j rest ih =>
    have hnext : leastKey a i (j :: rest) = leastKey a (if keyBefore a j i then j else i) rest := rfl
    rw [hnext]
    split
    · exact List.mem_cons_of_mem i (ih j)
    · obtain h | h := List.mem_cons.mp (ih i)
      · rw [h]; exact List.mem_cons_self
      · exact List.mem_cons_of_mem i (List.mem_cons_of_mem j h)

/-- Everything `takeLeast` can answer. -/
theorem takeLeast_cases (a : Arena) (set : List (Fin 511)) :
    (set = [] ∧ takeLeast a set = none) ∨ ∃ x ∈ set, takeLeast a set = some (x, set.erase x) := by
  cases set with
  | nil => exact .inl ⟨rfl, rfl⟩
  | cons i rest => exact .inr ⟨_, leastKey_mem a i rest, rfl⟩

/-! ### The merge (R240) -/

/-- The working set before the merge into record `k`: each entry heads a complete tree, whose depth its index bounds,
and while two entries remain there is room for the merges left, from the fresh record `k` on. -/
structure MergeInv (a : Arena) (k : Fin 511) (set : List (Fin 511)) : Prop where
  heads : ∀ i ∈ set, ∃ t, treeAt (i.val + 1) a i = some t
  room : 2 ≤ set.length → k.val + set.length ≤ 512
  below : 2 ≤ set.length → ∀ i ∈ set, i < k
  fresh : 2 ≤ set.length → ∀ j, k ≤ j → (a[j]).used = false

/-- One merge keeps the invariant. -/
theorem MergeInv.merge (h : MergeInv a k set) {x y : Fin 511} (hx : x ∈ set) (hy : y ∈ set.erase x) (w : Word) :
    MergeInv (a.set k (innerNode (some x) (some y) w)) (k + 1) ((set.erase x).erase y ++ [k]) := by
  have hlen1 := List.length_erase_of_mem hx
  have hlen2 := List.length_erase_of_mem hy
  have hpos := List.length_pos_of_mem hy
  have hlen : ((set.erase x).erase y ++ [k]).length + 1 = set.length := by
    rw [List.length_append, List.length_singleton]; omega
  have htwo : 2 ≤ set.length := by omega
  have hroom := h.room htwo
  have hfresh := h.fresh htwo
  have hsub {i : Fin 511} (hi : i ∈ (set.erase x).erase y) : i ∈ set :=
    List.mem_of_mem_erase (List.mem_of_mem_erase hi)
  have hold {i : Fin 511} (hi : i ∈ set) :
      ∃ t, treeAt (i.val + 1) (a.set k (innerNode (some x) (some y) w)) i = some t :=
    (h.heads i hi).imp fun _ => treeAt_set_unused (hfresh k le_rfl)
  have hnext (h3 : 2 ≤ ((set.erase x).erase y ++ [k]).length) : (k + 1).val = k.val + 1 := by
    rw [Fin.val_add_one_of_lt']
    omega
  refine ⟨?heads, ?room, ?below, ?fresh⟩
  case heads =>
    intro i hi
    obtain hi | hi := List.mem_append.mp hi
    · exact hold (hsub hi)
    · obtain rfl := List.mem_singleton.mp hi
      have child {j : Fin 511} (hj : j ∈ set) :
          ∃ t, treeAt i.val (a.set i (innerNode (some x) (some y) w)) j = some t :=
        (hold hj).imp fun _ => treeAt_mono (h.below htwo j hj)
      obtain ⟨tx, htx⟩ := child hx
      obtain ⟨ty, hty⟩ := child (List.mem_of_mem_erase hy)
      refine ⟨.node tx ty, treeAt_node (l := x) (r := y) ?_ ?_ ?_ ?_ htx hty⟩ <;>
        rw [arena_set_get, if_pos rfl] <;> rfl
  case room =>
    intro h3
    rw [hnext h3]
    omega
  case below =>
    intro h3 i hi
    rw [Fin.lt_def, hnext h3]
    obtain hi | hi := List.mem_append.mp hi
    · exact Nat.lt_succ_of_lt (h.below htwo i (hsub hi))
    · rw [List.mem_singleton.mp hi]
      exact Nat.lt_succ_self _
  case fresh =>
    intro h3 j hj
    rw [Fin.le_def, hnext h3] at hj
    have hne : k ≠ j := fun e => by rw [e] at hj; omega
    rw [arena_set_get, if_neg hne]
    exact hfresh j (Nat.le_of_succ_le hj)

theorem mergeAll_treeReady {n : Nat} (h : MergeInv a k set) :
    TreeReady (mergeAll n a k set).1 (mergeAll n a k set).2 := by
  induction n generalizing a k set with
  | zero => intro r hr; cases hr
  | succ n ih =>
    rw [mergeAll]
    obtain ⟨-, ht⟩ | ⟨x, hx, ht⟩ := takeLeast_cases a set <;> simp only [ht]
    · intro r hr; cases hr
    · obtain ⟨-, ht'⟩ | ⟨y, hy, ht'⟩ := takeLeast_cases a (set.erase x) <;> simp only [ht']
      · intro r hr
        cases hr
        exact (h.heads x hx).imp fun _ => treeAt_mono x.isLt
      · exact ih (h.merge hx hy _)

/-! ### The leaves (R232) -/

/-- The arena with leaves for the given symbols. -/
def seedOf (f : SymTable Word) (bs : List Byte) : Arena :=
  bs.foldl (fun a b => a.set (leafIndex b) (leafNode b (symGet f b))) blankArena

theorem seedLeaves_eq (f : SymTable Word) : seedLeaves f = seedOf f (presentSymbols f) := rfl

theorem seedOf_append_one (f : SymTable Word) (bs : List Byte) (b : Byte) :
    seedOf f (bs ++ [b]) = (seedOf f bs).set (leafIndex b) (leafNode b (symGet f b)) := by
  simp [seedOf]

theorem leafIndex_inj {b c : Byte} (h : leafIndex b = leafIndex c) : b = c :=
  BitVec.eq_of_toNat_eq (congrArg Fin.val h :)

theorem seedOf_leaf {bs : List Byte} (hb : b ∈ bs) : (seedOf f bs)[leafIndex b] = leafNode b (symGet f b) := by
  induction bs using List.reverseRecOn with
  | nil => cases hb
  | append_singleton bs c ih =>
    rw [seedOf_append_one, arena_set_get]
    split
    · next h => rw [leafIndex_inj h]
    · next h =>
      refine ih ((List.mem_append.mp hb).resolve_right fun hc => h ?_)
      rw [List.mem_singleton.mp hc]

theorem seedOf_blank {bs : List Byte} {j : Fin 511} (hj : ∀ b ∈ bs, leafIndex b ≠ j) :
    (seedOf f bs)[j] = Node.blank := by
  induction bs using List.reverseRecOn with
  | nil => exact blankArena_get j
  | append_singleton bs c ih =>
    rw [seedOf_append_one, arena_set_get, if_neg (hj c (by simp))]
    exact ih fun b hb => hj b (List.mem_append_left _ hb)

theorem presentSymbols_length (f : SymTable Word) : (presentSymbols f).length ≤ 256 := by
  have h := List.length_filter_le (fun b => decide (symGet f b ≠ 0)) allSymbols
  simpa [presentSymbols, allSymbols] using h

/-- The leaves are a working set for the merges from record 256 on. -/
theorem mergeInv_seedLeaves (f : SymTable Word) :
    MergeInv (seedLeaves f) 256 ((presentSymbols f).map leafIndex) := by
  rw [seedLeaves_eq]
  refine ⟨?heads, fun _ => ?room, fun _ => ?below, fun _ => ?fresh⟩
  case heads =>
    intro i hi
    obtain ⟨b, hb, rfl⟩ := List.mem_map.mp hi
    have hleaf := seedOf_leaf (f := f) hb
    exact ⟨_, treeAt_leaf (by rw [hleaf]; rfl) (by rw [hleaf]; rfl)⟩
  case room =>
    have hlen := presentSymbols_length f
    rw [List.length_map]
    exact Nat.add_le_add_left hlen 256
  case below =>
    intro i hi
    obtain ⟨b, -, rfl⟩ := List.mem_map.mp hi
    exact b.isLt
  case fresh =>
    intro j hj
    rw [seedOf_blank]
    · rfl
    · rintro b - rfl
      exact absurd b.isLt (Nat.not_lt.mpr hj)

theorem buildTree_treeReady (f : SymTable Word) : TreeReady (buildTree f).1 (buildTree f).2 :=
  mergeAll_treeReady (mergeInv_seedLeaves f)

end Sys2Proof.Machine
end

section
/-! PROOFS. 44_decoder.md R335 and R337, for 10_state.md R38: DECODE's tree phase keeps the records it has written
well-formed, and the tree it completes is complete. -/

namespace Sys2Proof.Machine

variable {s u : State} {m : Nat} {i j : Fin 511} {pos : TreePos}

/-! ### The written records -/

/-- The first `m` records are written, and PSTACK holds some of them, none twice. -/
structure Written (s : State) (m : Nat) : Prop where
  records : ∀ j : Fin 511, j.val < m → PartialRecord s m j
  stack : ∀ p ∈ s.pstack, p.val < m
  nodup : s.pstack.Nodup

theorem partialTree_iff :
    PartialTree s pos ↔ (∀ i k v, pos = .sym i k v → s.next.val = i.val + 1) ∧ Written s (writtenAt s pos) :=
  ⟨fun ⟨hn, hr, hs, hd⟩ => ⟨hn, hr, hs, hd⟩, fun ⟨hn, hr, hs, hd⟩ => ⟨hn, hr, hs, hd⟩⟩

/-- Before a tag the written records are those below NEXT. -/
theorem Written.partialTree_tag (h : Written s m) (hnext : s.next.val = m) : PartialTree s .tag :=
  partialTree_iff.mpr ⟨fun _ _ _ hpos => (by cases hpos), by rw [writtenAt, hnext]; exact h⟩

/-- Only NODE and PSTACK matter to the written records. -/
theorem Written.congr (h : Written s m) (hnode : u.node = s.node) (hstack : u.pstack = s.pstack) : Written u m := by
  obtain ⟨hr, hs, hd⟩ := h
  refine ⟨fun j hj => ?_, hstack ▸ hs, hstack ▸ hd⟩
  have hrec := hr j hj
  unfold PartialRecord at hrec ⊢
  rw [hnode, hstack]
  exact hrec

/-- Only NODE, PSTACK and NEXT matter to a partial tree. -/
theorem PartialTree.congr (h : PartialTree s pos) (hnode : u.node = s.node) (hstack : u.pstack = s.pstack)
    (hnext : u.next = s.next) : PartialTree u pos := by
  obtain ⟨hn, hw⟩ := partialTree_iff.mp h
  have hm : writtenAt u pos = writtenAt s pos := by cases pos <;> simp only [writtenAt, hnext]
  exact partialTree_iff.mpr ⟨hnext ▸ hn, hm ▸ hw.congr hnode hstack⟩

/-- Before the first record. -/
theorem written_zero (h : s.pstack = []) : Written s 0 :=
  ⟨fun _ hj => absurd hj (Nat.not_lt_zero _), by simp [h], by simp [h]⟩

/-- A record that keeps its contents and its place on PSTACK is as it was when another one is written. -/
theorem PartialRecord.keep (h : PartialRecord s m j) (hnode : u.node[j] = s.node[j])
    (hstack : j ∈ u.pstack ↔ j ∈ s.pstack) : PartialRecord u (m + 1) j := by
  unfold PartialRecord at h ⊢
  rw [hnode, hstack]
  obtain ⟨hu, hleaf | ⟨hn, hs, hr, hl⟩ | ⟨hn, hs, l, r, el, er, hjl, hl, hjr, hr⟩⟩ := h
  · exact ⟨hu, .inl hleaf⟩
  · exact ⟨hu, .inr (.inl ⟨hn, hs, hr, fun c hc => ⟨(hl c hc).1, Nat.lt_succ_of_lt (hl c hc).2⟩⟩)⟩
  · exact ⟨hu, .inr (.inr ⟨hn, hs, l, r, el, er, hjl, Nat.lt_succ_of_lt hl, hjr, Nat.lt_succ_of_lt hr⟩)⟩

/-- A record on PSTACK waits for a child (R335). -/
theorem PartialRecord.onStack (h : PartialRecord s m j) (hj : j ∈ s.pstack) :
    (s.node[j]).used = true ∧ (s.node[j]).leaf = false ∧ (s.node[j]).right = none ∧
    ∀ c, (s.node[j]).left = some c → j < c ∧ c.val < m := by
  obtain ⟨hu, ⟨-, hs⟩ | ⟨hn, -, hr, hl⟩ | ⟨-, hs, -⟩⟩ := h
  · exact absurd hj hs
  · exact ⟨hu, hn, hr, hl⟩
  · exact absurd hj hs

/-! ### A complete tree (R337) -/

/-- With PSTACK empty every written record heads a complete tree: its children are later records. -/
theorem Written.treeAt_of_complete (h : Written s m) (hs : s.pstack = []) {n : Nat} (hj : m - j.val ≤ n)
    (hm : j.val < m) : ∃ t, treeAt n s.node j = some t := by
  induction n generalizing j with
  | zero => omega
  | succ n ih =>
    obtain ⟨hu, ⟨hl, -⟩ | ⟨-, hmem, -⟩ | ⟨hn, -, l, r, el, er, hjl, hlm, hjr, hrm⟩⟩ := h.records j hm
    · exact ⟨_, treeAt_leaf hu hl⟩
    · simp [hs] at hmem
    · have hjl' : j.val < l.val := hjl
      have hjr' : j.val < r.val := hjr
      obtain ⟨tl, htl⟩ := ih (j := l) (by omega) hlm
      obtain ⟨tr, htr⟩ := ih (j := r) (by omega) hrm
      exact ⟨_, treeAt_node hu hn el er htl htr⟩

theorem Written.treeReady (h : Written s m) (hs : s.pstack = []) (hpos : 0 < m) (hm : m ≤ 511) :
    TreeReady s.node (some 0) := by
  rintro r hr
  obtain rfl := Option.some.inj hr
  exact h.treeAt_of_complete hs hm hpos

/-! ### Attaching a new record (R335) -/

/-- What a child does to its parent: the top of PSTACK gets it as LEFT, or as RIGHT and is popped. -/
theorem attach_cons {p : Fin 511} {rest : List (Fin 511)} (h : s.pstack = p :: rest) :
    ((s.node[p]).left = none ∧ attach i s = s.setNode p { s.node[p] with left := some i }) ∨
    (∃ c, (s.node[p]).left = some c) ∧
      attach i s = { s.setNode p { s.node[p] with right := some i } with pstack := rest } := by
  unfold attach
  rw [h]
  dsimp only
  split
  · next hl => exact .inl ⟨hl, rfl⟩
  · next hl => exact .inr ⟨Option.ne_none_iff_exists'.mp hl, rfl⟩

/-- The records written before record `i` and its parent's update keep their form, and `i` is not on PSTACK yet. -/
structure Attached (i : Fin 511) (n : Node) (u : State) : Prop where
  record : u.node[i] = n
  records : ∀ j, j < i → PartialRecord u (i.val + 1) j
  stack : ∀ p ∈ u.pstack, p < i
  nodup : u.pstack.Nodup

/-- It is enough to see what became of the parent: every other record keeps its contents and its place. -/
theorem Written.attached_of_parent {n q : Node} {p : Fin 511} (h : Written s i.val) (hp : p ∈ s.pstack)
    (hnode : u.node = ((s.setNode i n).setNode p q).node) (hparent : PartialRecord u (i.val + 1) p)
    (hsub : u.pstack ⊆ s.pstack) (hkeep : ∀ j ∈ s.pstack, j ≠ p → j ∈ u.pstack) (hnodup : u.pstack.Nodup) :
    Attached i n u := by
  obtain ⟨hr, hs, -⟩ := h
  refine ⟨?_, fun j hj => ?_, fun j hj => hs j (hsub hj), hnodup⟩
  · have hpi : p < i := hs p hp
    rw [hnode, setNode_get, if_neg (ne_of_lt hpi), setNode_get, if_pos rfl]
  · by_cases hjp : j = p
    · exact hjp ▸ hparent
    · refine (hr j hj).keep ?_ ⟨fun hmem => hsub hmem, fun hmem => hkeep j hmem hjp⟩
      rw [hnode, setNode_get, if_neg (Ne.symm hjp), setNode_get, if_neg (ne_of_gt hj)]

/-- Writing record `i` and attaching it gives the top of PSTACK its next child. -/
theorem Written.attached (h : Written s i.val) (n : Node) : Attached i n (attach i (s.setNode i n)) := by
  obtain ⟨hr, hs, hd⟩ := id h
  cases hstack : s.pstack with
  | nil =>
    rw [attach, setNode_pstack, hstack]
    refine ⟨by rw [setNode_get, if_pos rfl], fun j hj => ?_, hs, hd⟩
    exact (hr j hj).keep (by rw [setNode_get, if_neg (ne_of_gt hj)]) Iff.rfl
  | cons p rest =>
    have hmem : p ∈ s.pstack := by rw [hstack]; exact List.mem_cons_self
    have hp : p < i := hs p hmem
    obtain ⟨hused, hleaf, hright, hleft⟩ := (hr p hp).onStack hmem
    have hold : (s.setNode i n).node[p] = s.node[p] := by rw [setNode_get, if_neg (ne_of_gt hp)]
    have hnew (q : Node) : ((s.setNode i n).setNode p q).node[p] = q := by rw [setNode_get, if_pos rfl]
    obtain ⟨hl, he⟩ | ⟨⟨c, hl⟩, he⟩ := attach_cons (s := s.setNode i n) (i := i) hstack <;>
      rw [hold] at hl he <;> rw [he]
    · refine h.attached_of_parent hmem rfl ?_ (List.Subset.refl _) (fun _ hj _ => hj) hd
      refine ⟨?_, .inr (.inl ⟨?_, hmem, ?_, ?_⟩)⟩ <;> rw [hnew]
      · exact hused
      · exact hleaf
      · exact hright
      · rintro c hc
        obtain rfl := Option.some.inj hc
        exact ⟨hp, Nat.lt_succ_self _⟩
    · rw [hstack, List.nodup_cons] at hd
      obtain ⟨hpc, hci⟩ := hleft c hl
      refine h.attached_of_parent (p := p) hmem rfl ?_ ?_ ?_ hd.2
      · refine ⟨?_, .inr (.inr ⟨?_, hd.1, c, i, ?_, ?_, hpc, Nat.lt_succ_of_lt hci, hp, Nat.lt_succ_self _⟩)⟩ <;>
          dsimp only <;> rw [hnew]
        · exact hused
        · exact hleaf
        · exact hl
      · rw [hstack]
        exact List.subset_cons_self p rest
      · intro j hj hne
        rw [hstack] at hj
        exact (List.mem_cons.mp hj).resolve_left hne

/-- An attached leaf is one more written record. -/
theorem Attached.leaf {v : Byte} {w : Word} (h : Attached i (leafNode v w) u) : Written u (i.val + 1) := by
  obtain ⟨hrec, hr, hs, hd⟩ := h
  refine ⟨fun j hj => ?_, fun p hp => Nat.lt_succ_of_lt (hs p hp), hd⟩
  obtain hlt | heq := Nat.lt_succ_iff_lt_or_eq.mp hj
  · exact hr j hlt
  · obtain rfl := Fin.ext heq
    refine ⟨?_, .inl ⟨?_, fun hmem => lt_irrefl _ (hs _ hmem)⟩⟩ <;> rw [hrec] <;> rfl

/-- An attached internal node goes to PSTACK and is then one more written record. -/
theorem Attached.inner {w : Word} (h : Attached i (innerNode none none w) u) :
    Written { u with pstack := i :: u.pstack } (i.val + 1) := by
  obtain ⟨hrec, hr, hs, hd⟩ := h
  have hnew : i ∉ u.pstack := fun hmem => lt_irrefl _ (hs i hmem)
  refine ⟨fun j hj => ?_, ?_, List.nodup_cons.mpr ⟨hnew, hd⟩⟩
  · obtain hlt | heq := Nat.lt_succ_iff_lt_or_eq.mp hj
    · have hne : j ≠ i := fun e => by simp [e] at hlt
      have hmem : j ∈ i :: u.pstack ↔ j ∈ u.pstack := by simp [hne]
      have hrec := hr j hlt
      unfold PartialRecord at hrec ⊢
      rw [hmem]
      exact hrec
    · obtain rfl := Fin.ext heq
      refine ⟨?_, .inr (.inl ⟨?_, List.mem_cons_self, ?_, ?_⟩)⟩ <;> dsimp only <;> rw [hrec]
      · rfl
      · rfl
      · rfl
      · rintro c hc; cases hc
  · rintro p hp
    obtain rfl | hp := List.mem_cons.mp hp
    · exact Nat.lt_succ_self _
    · exact Nat.lt_succ_of_lt (hs p hp)

/-! ### One header bit (R335) -/

/-- What a header step must leave: a partial tree at its new position, or a complete one. -/
def HeaderStep.Fits (h : HeaderStep) : Prop :=
  match h with
  | .more pos s => PartialTree s pos
  | .complete s => s.root = some 0 ∧ TreeReady s.node s.root
  | .malformed _ => True

/-- Attaching leaves NEXT alone. -/
theorem attach_next (i : Fin 511) (s : State) : (attach i s).next = s.next := by
  obtain ⟨_, _, e⟩ := attach_frame i s
  rw [e]

theorem tagBit_fits (b : Bool) (h : PartialTree s .tag) : (tagBit b s).Fits := by
  obtain ⟨-, hw⟩ := partialTree_iff.mp h
  unfold tagBit
  split
  · next hlt =>
    have hnext : (s.next + 1).val = s.next.val + 1 := Fin.val_add_one_of_lt' (by omega)
    cases b with
    | true =>
      refine partialTree_iff.mpr ⟨fun i k v hpos => ?_, hw.congr rfl rfl⟩
      cases hpos
      exact hnext
    | false =>
      have hwi : Written { s with next := s.next + 1 } (⟨s.next.val, hlt⟩ : Fin 511).val := hw.congr rfl rfl
      exact (hwi.attached _).inner.partialTree_tag ((congrArg Fin.val (attach_next _ _)).trans hnext)
  · trivial

theorem leafRead_fits {k : Fin 8} {acc : Byte} (v : Byte) (h : PartialTree s (.sym i k acc)) :
    (leafRead i v s).Fits := by
  obtain ⟨hnext, hw⟩ := partialTree_iff.mp h
  unfold leafRead
  split
  · trivial
  · have hwi : Written { s with seen := symPut s.seen v true } i.val := hw.congr rfl rfl
    have hleaf := (hwi.attached (leafNode v 0)).leaf
    dsimp only
    split
    · next hs => exact ⟨rfl, hleaf.treeReady hs (Nat.succ_pos _) i.isLt⟩
    · exact hleaf.partialTree_tag ((congrArg Fin.val (attach_next _ _)).trans (hnext i k acc rfl))

theorem headerBit_fits (b : Bool) (h : PartialTree s pos) : (headerBit b pos s).Fits := by
  cases pos with
  | tag => exact tagBit_fits b h
  | sym i k acc =>
    simp only [headerBit]
    split
    · exact leafRead_fits _ h
    · obtain ⟨hnext, hw⟩ := partialTree_iff.mp h
      refine partialTree_iff.mpr ⟨fun i' k' v' hpos => ?_, hw⟩
      cases hpos
      exact hnext i k acc rfl

end Sys2Proof.Machine
end

section
/-! PROOFS. 10_state.md R36, R38, R43, R52: every step keeps the engine sound. -/

namespace Sys2Proof.Machine

variable {s t u : State} {c : Instr} {pos : TreePos}

/-! ### Sound states, by what the engine does -/

/-- Without a valid tree there is none to be complete. -/
theorem treeReady_of_invalid (hvalid : s.treeValid = false) : s.treeValid = true → TreeReady s.node s.root :=
  fun h => absurd (hvalid.symm.trans h) Bool.false_ne_true

/-- A stopped engine is sound when a valid tree is complete and no walk is in progress. -/
theorem soundInv_of_stopped (hb : s.busy = false) (hready : s.treeValid = true → TreeReady s.node s.root)
    (hwalk : s.walk = none) : s.SoundInv := by
  have idle {P : Prop} (h : s.busy = true) : P := absurd (hb.symm.trans h) Bool.false_ne_true
  exact ⟨idle, ⟨hready, fun _ => hwalk, fun h => idle h.1, fun h => idle h.1, fun h => idle h.1, fun _ _ h => idle h,
    fun _ h => idle h, idle, idle, idle⟩⟩

/-- A running command other than DECODE is sound at its own points, when GENCODE and EMITHDR have a tree. -/
theorem soundInv_of_running (hrun : Runs c s) (hc : c ≠ .decode) (hown : ownsPoint c s.point = true)
    (hready : s.treeValid = true → TreeReady s.node s.root) (hwalk : s.walk = none)
    (hgen : c = .gencode → s.treeValid = true)
    (hhdr : c = .emithdr → s.point = .accepted → s.treeValid = true) : s.SoundInv := by
  have other {p : Point} {P : Prop} (hp : s.point = p) (hdec : ownsPoint c p = decide (c = .decode)) : P := by
    rw [hp, hdec] at hown
    exact absurd (of_decide_eq_true hown) hc
  refine ⟨fun _ => ⟨c, hrun.2, hown⟩, ⟨hready, fun _ => hwalk, fun h => hgen (h.unique hrun),
    fun h => hhdr (h.unique hrun), fun h => absurd (h.unique hrun) hc, ?_, ?_, ?_, ?_, ?_⟩⟩
  · exact fun k n _ hp => other hp rfl
  · exact fun pos _ hp => other hp rfl
  · exact fun _ hp => other hp rfl
  · exact fun _ hp => other hp rfl
  · exact fun _ hp => other hp rfl

/-- What DECODE's registers are at each of its points (44_decoder.md R334 to R344). -/
def DecodePhase (p : Point) (s : State) : Prop :=
  match p with
  | .accepted | .decCount _ _ => s.treeValid = false ∧ s.emitted = 0
  | .decTree pos => s.treeValid = false ∧ s.emitted = 0 ∧ s.dcount ≠ 0 ∧ PartialTree s pos
  | .decDegen => s.emitted < s.dcount ∧ s.root ≠ none
  | .decTok => s.emitted ≠ s.dcount →
      ∃ c r, s.cur = some c ∧ s.root = some r ∧ InnerAt s.node c ∧ InnerAt s.node r
  | .decPush => s.emitted < s.dcount ∧ s.cur ≠ none ∧ ∃ r, s.root = some r ∧ InnerAt s.node r
  | .countPop | .hdrPush _ _ | .encPop | .encPush | .encFlush => False

theorem DecodePhase.owned {p : Point} (h : DecodePhase p s) : ownsPoint .decode p = true := by
  cases p
  case countPop | hdrPush | encPop | encPush | encFlush => exact h.elim
  all_goals rfl

/-- DECODE's part of the soundness invariant. -/
structure DecodeSound (s : State) : Prop where
  ready : s.treeValid = true → TreeReady s.node s.root
  noWalk : ¬Walking s → s.walk = none
  phase : s.busy = true → DecodePhase s.point s

theorem DecodeSound.soundInv (h : DecodeSound s) (hrun : s.busy = true → Runs .decode s) : s.SoundInv := by
  obtain ⟨hready, hwalk, hphase⟩ := h
  cases hb : s.busy with
  | false => exact soundInv_of_stopped hb hready (hwalk fun hw => absurd (hb.symm.trans hw.1) Bool.false_ne_true)
  | true =>
    have hdec := hrun hb
    have hat {p : Point} (hp : s.point = p) : DecodePhase p s := hp ▸ hphase hb
    refine ⟨fun _ => ⟨.decode, hdec.2, (hphase hb).owned⟩, ⟨hready, hwalk, ?_, ?_, fun _ hp => hat hp,
      fun _ _ _ hp => hat hp, fun _ _ hp => hat hp, fun _ hp => hat hp, fun _ hp => hat hp, fun _ hp => hat hp⟩⟩
    · exact fun hgen => nomatch hdec.unique hgen
    · exact fun hhdr => nomatch hdec.unique hhdr

/-- The other direction, for a running DECODE. -/
theorem State.SoundInv.decodeSound (hs : s.SoundInv) (hrun : Runs .decode s) : DecodeSound s := by
  obtain ⟨hpoint, hready, hwalk, -, -, hstart, hcount, hheader, hdegen, htoken, hpush⟩ := hs
  refine ⟨hready, hwalk, fun hb => ?_⟩
  obtain ⟨c, hc, hown⟩ := hpoint hb
  obtain rfl := hrun.unique ⟨hb, hc⟩
  cases hp : s.point
  case accepted => exact hstart hrun hp
  case decCount k n => exact hcount k n hb hp
  case decTree pos => exact hheader pos hb hp
  case decDegen => exact hdegen hb hp
  case decTok => exact htoken hb hp
  case decPush => exact hpush hb hp
  all_goals simp [hp, ownsPoint] at hown

/-! ### DECODE's micro-steps -/

/-- An error ends DECODE outside its walk. -/
theorem raiseError_decodeSound (e : HuffError) (hready : s.treeValid = true → TreeReady s.node s.root)
    (hwalk : s.walk = none) : DecodeSound (raiseError e s) :=
  ⟨hready, fun _ => hwalk, fun hb => absurd hb Bool.false_ne_true⟩

/-- The switch to streaming, before any symbol is emitted and over a complete tree (R338, R339). -/
theorem startStreaming_decodeSound (hready : TreeReady s.node s.root) (hemitted : s.emitted = 0)
    (hroot : s.dcount ≠ 0 → s.root ≠ none) : DecodeSound (startStreaming s) := by
  unfold startStreaming
  dsimp only
  split
  · next hr =>
    have hdone : s.emitted = s.dcount := by
      by_contra hne
      exact hroot (fun h0 => hne (hemitted.trans h0.symm)) hr
    exact ⟨fun _ => hready, fun _ => rfl, fun _ hne => absurd hdone hne⟩
  · next r hr =>
    split
    · next hleaf =>
      refine ⟨fun _ => hready, fun _ => rfl, fun _ => ⟨?_, fun h => ?_⟩⟩
      · exact of_decide_eq_true (Bool.and_eq_true_iff.mp hleaf).2
      · exact nomatch hr.symm.trans h
    · next hinner =>
      refine ⟨fun _ => hready, fun _ => rfl, fun _ hne => ?_⟩
      have hlt : s.emitted < s.dcount := by
        have hne' : s.emitted ≠ s.dcount := hne
        rw [hemitted] at hne' ⊢
        bv_omega
      obtain ⟨tr, htr⟩ := hready r hr
      obtain ⟨hleaf, -⟩ | ⟨-, l, r', rfl⟩ := wholeTree_leaf htr
      · exact absurd (Bool.and_eq_true_iff.mpr ⟨hleaf, decide_eq_true hlt⟩) hinner
      · exact ⟨r, r, hr, hr, ⟨l, r', htr⟩, ⟨l, r', htr⟩⟩

/-- The end of the count phase starts the tree phase with no record written, or streams nothing (R334, R335). -/
theorem countDone_decodeSound (n : Word) (hvalid : s.treeValid = false) (hemitted : s.emitted = 0)
    (hwalk : s.walk = none) : DecodeSound (countDone n s) := by
  unfold countDone
  dsimp only
  split
  · next hn => exact startStreaming_decodeSound (fun r hr => nomatch hr) hemitted fun h => absurd hn h
  · next hn =>
    refine ⟨treeReady_of_invalid hvalid, fun _ => hwalk, fun _ => ⟨hvalid, hemitted, hn, ?_⟩⟩
    exact Written.partialTree_tag (written_zero rfl) rfl

theorem decCountToken_decodeSound (k : Fin 4) (n : Word) (tok : Token) (hvalid : s.treeValid = false)
    (hemitted : s.emitted = 0) (hwalk : s.walk = none) : DecodeSound (decCountToken k n tok s) := by
  have hready := treeReady_of_invalid hvalid
  cases tok with
  | eos => exact raiseError_decodeSound _ hready hwalk
  | data b =>
    unfold decCountToken
    dsimp only
    split
    · exact countDone_decodeSound _ hvalid hemitted hwalk
    · exact ⟨hready, fun _ => hwalk, fun _ => ⟨hvalid, hemitted⟩⟩

/-- The tree phase on the bits left of a byte: it waits with a partial tree, streams from a complete one, or ends with
an error. -/
theorem headerBits_decodeSound {n : Nat} (htree : PartialTree s pos) (hvalid : s.treeValid = false)
    (hemitted : s.emitted = 0) (hcount : s.dcount ≠ 0) (hwalk : s.walk = none) :
    DecodeSound (headerBits n pos s) := by
  induction n generalizing pos s with
  | zero =>
    refine ⟨treeReady_of_invalid hvalid, fun _ => hwalk, fun _ => ⟨hvalid, hemitted, hcount, ?_⟩⟩
    exact htree.congr rfl rfl rfl
  | succ k ih =>
    have htree' : PartialTree { s with dbits := BitVec.ofNat 4 k } pos := htree.congr rfl rfl rfl
    have hfits := headerBit_fits (s.dbyte.getLsbD k) htree'
    obtain ⟨_, _, _, _, _, _, hframe⟩ := headerBit_frame (s.dbyte.getLsbD k) pos { s with dbits := BitVec.ofNat 4 k }
    unfold headerBits
    cases hstep : headerBit (s.dbyte.getLsbD k) pos { s with dbits := BitVec.ofNat 4 k } with
    | more pos' s' =>
      rw [hstep] at hfits hframe
      obtain rfl : s' = _ := hframe
      exact ih hfits hvalid hemitted hcount hwalk
    | complete s' =>
      rw [hstep] at hfits hframe
      obtain rfl : s' = _ := hframe
      obtain ⟨hroot, hready⟩ := hfits
      exact startStreaming_decodeSound hready hemitted fun _ => by rw [hroot]; exact nofun
    | malformed s' =>
      rw [hstep] at hframe
      obtain rfl : s' = _ := hframe
      exact raiseError_decodeSound _ (treeReady_of_invalid hvalid) hwalk

theorem decTreeToken_decodeSound (tok : Token) (htree : PartialTree s pos) (hvalid : s.treeValid = false)
    (hemitted : s.emitted = 0) (hcount : s.dcount ≠ 0) (hwalk : s.walk = none) :
    DecodeSound (decTreeToken pos tok s) := by
  cases tok with
  | eos => exact raiseError_decodeSound _ (treeReady_of_invalid hvalid) hwalk
  | data b =>
    exact headerBits_decodeSound (htree.congr rfl rfl rfl) hvalid hemitted hcount hwalk

/-- EMITTED reaches N and does not pass it. -/
theorem add_one_eq_of_lt {e n : Word} (h : e < n) (h' : ¬e + 1 < n) : e + 1 = n := by bv_omega

/-- A pushed symbol of the degenerate output (R339). -/
theorem degenPushed_decodeSound (hready : s.treeValid = true → TreeReady s.node s.root) (hwalk : s.walk = none)
    (hlt : s.emitted < s.dcount) (hroot : s.root ≠ none) : DecodeSound (degenPushed s) := by
  unfold degenPushed
  dsimp only
  split
  · next hmore => exact ⟨hready, fun _ => hwalk, fun _ => ⟨hmore, hroot⟩⟩
  · next hend => exact ⟨hready, fun _ => hwalk, fun _ hne => absurd (add_one_eq_of_lt hlt hend) hne⟩

/-- A walk from an internal node stops at a leaf or at an internal node (R340, R342). -/
theorem walkBits_phase {n : Nat} (h : DecodePhase .decTok s) (hw : walkBits n s = .next t) :
    DecodePhase t.point t := by
  induction n generalizing s with
  | zero => cases hw; exact h
  | succ k ih =>
    by_cases hlt : s.emitted < s.dcount
    · obtain ⟨c, r, hcur, hroot, ⟨l, r', hc⟩, hinner⟩ := h (by bv_omega)
      obtain ⟨d, hd, he⟩ := walkBits_succ (k := k) hcur hc hlt
      rw [he] at hw
      split at hw
      · cases hw
        exact ⟨hlt, nofun, r, hroot, hinner⟩
      · next hleaf =>
        obtain ⟨hl, -⟩ | ⟨-, l', r'', e⟩ := wholeTree_leaf hd
        · exact absurd hl hleaf
        · exact ih (s := walkTo d { s with dbits := _ }) (fun _ => ⟨d, r, rfl, hroot, ⟨l', r'', e ▸ hd⟩, hinner⟩) hw
    · rw [walkBits, if_neg hlt] at hw
      cases hw
      exact h

theorem walkBits_decodeSound {n : Nat} (hb : s.busy = true) (hready : s.treeValid = true → TreeReady s.node s.root)
    (h : DecodePhase .decTok s) (hw : walkBits n s = .next t) : DecodeSound t := by
  refine ⟨?_, ?_, fun _ => walkBits_phase h hw⟩ <;> obtain ⟨_, _, _, hp, rfl⟩ := walkBits_frame n hw
  · exact hready
  · exact fun hno => absurd ⟨hb, hp⟩ hno

theorem decTokToken_decodeSound {tok : Token} (hb : s.busy = true)
    (hready : s.treeValid = true → TreeReady s.node s.root) (hp : s.point = .decTok) (h : DecodePhase .decTok s)
    (ht : decTokToken tok s = .next t) : DecodeSound t := by
  cases tok with
  | eos => cases ht; exact ⟨hready, fun _ => rfl, fun hb => absurd hb Bool.false_ne_true⟩
  | data b =>
    simp only [decTokToken] at ht
    split at ht
    · cases ht
      refine ⟨hready, fun hno => absurd ⟨hb, .inl hp⟩ hno, fun _ => ?_⟩
      rw [hp]
      exact h
    · exact walkBits_decodeSound (s := { s with dbyte := b, dbits := 8 }) hb hready h ht

theorem decodeBody_decodeSound (hb : s.busy = true) (hs : DecodeSound s) (h : decodeBody s = .next t) :
    DecodeSound t := by
  obtain ⟨hready, hnoWalk, hphase⟩ := id hs
  have hat {p : Point} (hp : s.point = p) : DecodePhase p s := hp ▸ hphase hb
  have hstill {p : Point} (hp : s.point = p) (htok : p ≠ .decTok) (hpush : p ≠ .decPush) : s.walk = none :=
    hnoWalk fun hw => hw.2.elim (fun e => htok (hp.symm.trans e)) fun e => hpush (hp.symm.trans e)
  obtain rfl | ⟨hp, rfl⟩ | ⟨k, n, tok, rest, hp, -, rfl⟩ | ⟨pos, tok, rest, hp, -, rfl⟩ | ⟨hp, r, -, -, rfl⟩ |
    ⟨hp, tok, rest, -, htok⟩ | ⟨hp, c, -, -, hwalk⟩ := decodeBody_cases h
  · exact hs
  · exact ⟨hready, fun _ => hstill hp nofun nofun, fun _ => hat hp⟩
  · obtain ⟨hvalid, hemitted⟩ := hat hp
    exact decCountToken_decodeSound k n tok hvalid hemitted (hstill hp nofun nofun)
  · obtain ⟨hvalid, hemitted, hcount, htree⟩ := hat hp
    exact decTreeToken_decodeSound tok (htree.congr rfl rfl rfl) hvalid hemitted hcount (hstill hp nofun nofun)
  · obtain ⟨hlt, hroot⟩ := hat hp
    exact degenPushed_decodeSound hready (hstill hp nofun nofun) hlt hroot
  · exact decTokToken_decodeSound (s := { s with inFifo := rest }) hb hready hp (hat hp) htok
  · obtain ⟨-, -, r, hroot, hinner⟩ := hat hp
    exact walkBits_decodeSound (s := endWalk { s with outFifo := _, outbytes := _, emitted := _ }) hb hready
      (fun _ => ⟨r, r, hroot, hroot, hinner, hinner⟩) hwalk

/-! ### The other commands' micro-steps -/

/-- COUNT, EMITHDR and ENCODE wait, end, or go to a point of their own past their start. -/
def WaitsEndsOrGoesOn (c : Instr) (s t : State) : Prop :=
  t = s ∨ t.busy = false ∨ ownsPoint c t.point = true ∧ t.point ≠ .accepted

theorem countToken_goesOn (k : Token) (hp : s.point = .countPop) : WaitsEndsOrGoesOn .count u (countToken k s) := by
  cases k with
  | eos => exact .inr (.inl rfl)
  | data b =>
    unfold countToken
    dsimp only
    split
    · exact .inr (.inl rfl)
    · exact .inr (.inr (by simp [hp, ownsPoint]))

theorem countBody_goesOn (h : countBody s = .next t) : WaitsEndsOrGoesOn .count s t := by
  obtain rfl | ⟨-, rfl⟩ | ⟨hp, k, rest, -, rfl⟩ := countBody_cases h
  · exact .inl rfl
  · exact .inr (.inr ⟨rfl, nofun⟩)
  · exact countToken_goesOn k hp

theorem hdrNext_goesOn (bytes : List Byte) (s : State) : WaitsEndsOrGoesOn .emithdr u (hdrNext bytes s) := by
  cases bytes with
  | nil => exact .inr (.inl rfl)
  | cons b rest => exact .inr (.inr ⟨rfl, nofun⟩)

theorem emithdrBody_goesOn (h : emithdrBody s = .next t) : WaitsEndsOrGoesOn .emithdr s t := by
  obtain rfl | ⟨-, tree, rfl, -⟩ | ⟨b, rest, -, -, rfl⟩ := emithdrBody_cases h
  · exact .inl rfl
  · exact hdrNext_goesOn _ s
  · exact hdrNext_goesOn rest _

theorem encNext_goesOn (s : State) : WaitsEndsOrGoesOn .encode u (encNext s) := by
  unfold encNext
  split <;> exact .inr (.inr ⟨rfl, nofun⟩)

theorem encToken_goesOn (k : Token) (s : State) : WaitsEndsOrGoesOn .encode u (encToken k s) := by
  cases k with
  | eos =>
    simp only [encToken]
    split
    · exact .inr (.inl rfl)
    · exact .inr (.inr ⟨rfl, nofun⟩)
  | data b =>
    simp only [encToken]
    split
    · exact encNext_goesOn _
    · exact .inr (.inl rfl)

theorem encodeBody_goesOn (h : encodeBody s = .next t) : WaitsEndsOrGoesOn .encode s t := by
  obtain rfl | ⟨-, rfl⟩ | ⟨-, k, rest, -, rfl⟩ | ⟨-, -, rfl⟩ | ⟨-, -, rfl⟩ := encodeBody_cases h
  · exact .inl rfl
  · exact .inr (.inr ⟨rfl, nofun⟩)
  · exact encToken_goesOn k _
  · exact encNext_goesOn _
  · exact .inr (.inl rfl)

theorem exec_goesOn (hb : s.busy = true) (hc : c ≠ .decode) (h : exec c s = .next t) : WaitsEndsOrGoesOn c s t := by
  by_cases hsingle : SingleStepCommand c
  · obtain ⟨u, hu, hend, -⟩ | ⟨⟨f, hf⟩, -⟩ := hsingle.endsOrFaults hb
    · obtain rfl := Host.Outcome.next.inj (hu.symm.trans h)
      exact .inr (.inl hend)
    · exact nomatch hf.symm.trans h
  · obtain rfl | rfl | rfl | rfl : c = .count ∨ c = .emithdr ∨ c = .encode ∨ c = .decode := by
      simpa only [SingleStepCommand, not_and_or, not_not] using hsingle
    · exact countBody_goesOn ((runCommand_busy hb).symm.trans h)
    · exact emithdrBody_goesOn ((runCommand_busy hb).symm.trans h)
    · exact encodeBody_goesOn ((runCommand_busy hb).symm.trans h)
    · exact absurd rfl hc

/-- A valid tree stays complete: only BUILD writes one, and it is complete (R36, R38). -/
theorem exec_treeReady (hb : s.busy = true) (hc : c ≠ .decode) (h : exec c s = .next t)
    (hready : s.treeValid = true → TreeReady s.node s.root) : t.treeValid = true → TreeReady t.node t.root := by
  have hf := exec_microStepFrame hb h
  cases c
  case decode => exact absurd rfl hc
  case build =>
    cases (runCommand_singleStep_cases hb h).2
    exact fun _ => buildTree_treeReady s.freq
  case clrfreq => cases (runCommand_singleStep_cases hb h).2; exact nofun
  case wrfreq b =>
    cases (runCommand_singleStep_cases hb h).2
    unfold wrfreqBody
    split
    · exact nofun
    · exact hready
  all_goals rw [hf]; exact hready

theorem exec_keeps_walk (hb : s.busy = true) (hc : c ≠ .decode) (h : exec c s = .next t) : t.walk = s.walk := by
  have hf := exec_microStepFrame hb h
  cases c
  case decode => exact absurd rfl hc
  all_goals exact (congrArg State.walk hf :)

/-- A running command other than DECODE does not walk. -/
theorem State.SoundInv.walk_of_running (hs : s.SoundInv) (hrun : Runs c s) (hc : c ≠ .decode) : s.walk = none := by
  refine hs.tree.noWalk fun hw => hc ?_
  obtain ⟨d, hd, hown⟩ := hs.point hrun.1
  obtain rfl := hrun.unique ⟨hrun.1, hd⟩
  obtain ⟨-, hp | hp⟩ := hw <;> simpa [hp, ownsPoint] using hown

theorem exec_soundInv (hs : s.SoundInv) (hrun : Runs c s) (h : exec c s = .next t) : t.SoundInv := by
  have hruns (ht : t.busy = true) : Runs c t := ⟨ht, (exec_keeps_latches hrun.1 h) ▸ hrun.2⟩
  by_cases hc : c = .decode
  · subst hc
    have hbody := (runCommand_busy hrun.1).symm.trans h
    exact (decodeBody_decodeSound hrun.1 (hs.decodeSound hrun) hbody).soundInv hruns
  · have hready := exec_treeReady hrun.1 hc h hs.tree.valid
    have hwalk := (exec_keeps_walk hrun.1 hc h).trans (hs.walk_of_running hrun hc)
    cases hb : t.busy with
    | false => exact soundInv_of_stopped hb hready hwalk
    | true =>
      obtain rfl | hstop | ⟨hown, hpoint⟩ := exec_goesOn hrun.1 hc h
      · exact hs
      · exact absurd (hstop.symm.trans hb) Bool.false_ne_true
      · refine soundInv_of_running (hruns hb) hc hown hready hwalk ?_ fun _ hp => absurd hp hpoint
        rintro rfl
        exact ((exec_keeps_validity hrun.1 h).1 rfl).trans (hs.tree.gencode hrun)

/-! ### Host accesses and acceptance -/

/-- An accepted command is at its start with its precondition met, and an error leaves the engine idle (R381). -/
theorem Presented.soundInv (hs : s.SoundInv) (hb : s.busy = false) (h : Presented s t) : t.SoundInv := by
  have hwalk : s.walk = none := hs.tree.noWalk fun hw => absurd (hb.symm.trans hw.1) Bool.false_ne_true
  obtain ⟨e, rfl⟩ | ⟨c, hc, hp, rfl⟩ := h
  · exact soundInv_of_stopped rfl hs.tree.valid hwalk
  · have hdec := decodeWord_latched hc { s with done := false }
    cases c
    case decode => exact DecodeSound.soundInv ⟨nofun, fun _ => hwalk, fun _ => ⟨rfl, rfl⟩⟩ fun hb => ⟨hb, hdec⟩
    case count => exact soundInv_of_running ⟨rfl, hdec⟩ nofun rfl nofun hwalk nofun nofun
    case gencode =>
      exact soundInv_of_running ⟨rfl, hdec⟩ nofun rfl hs.tree.valid hwalk (fun _ => hp) nofun
    case emithdr =>
      exact soundInv_of_running ⟨rfl, hdec⟩ nofun rfl hs.tree.valid hwalk nofun
        fun _ _ => (Bool.and_eq_true_iff.mp hp).1
    all_goals exact soundInv_of_running ⟨rfl, hdec⟩ nofun rfl hs.tree.valid hwalk nofun nofun

theorem HostEffect.soundInv (hs : s.SoundInv) (h : HostEffect s t) : t.SoundInv := by
  obtain ⟨hpoint, hready, hwalk, hgen, hhdr, hstart, hcount, hheader, hdegen, htoken, hpush⟩ := hs
  rw [h.frame]
  refine ⟨hpoint, ⟨hready, hwalk, hgen, hhdr, hstart, hcount, fun pos hb hp => ?_, hdegen, htoken, hpush⟩⟩
  obtain ⟨hvalid, hemitted, hcount, htree⟩ := hheader pos hb hp
  exact ⟨hvalid, hemitted, hcount, htree.congr rfl rfl rfl⟩

theorem step_soundInv (hs : s.SoundInv) (h : step s = .next t) : t.SoundInv := by
  refine step_induction ?host ?reset ?idle ?micro hs h
  case host => exact fun s t hs he => he.soundInv hs
  case reset => exact fun s _ => soundInv_of_stopped rfl nofun rfl
  case idle => exact fun s t hs hb hp => hp.soundInv hs hb
  case micro => exact fun c s t hs hrun hexec => exec_soundInv hs hrun hexec

end Sys2Proof.Machine

namespace Sys2Proof.Proofs

open Sys2Proof.Machine

/-- Settles O50, by the kind of step: DECODE phase by phase, BUILD by the completeness of the merged tree. -/
theorem stepKeepsTheEngineSound : Obligations.StepKeepsTheEngineSound := by
  intro s t hs h
  have ht := step_soundInv hs h
  exact ⟨ht, fun hno => cur_noWalk t (ht.tree.noWalk hno)⟩

end Sys2Proof.Proofs
end

section
/-! PROOFS. 20_memory.md: accesses outside the interface are refused (R104, R106). -/

namespace Sys2Proof.Machine

theorem aligned32_of_width_ne {width : Nat} (h : width ≠ 32) (off : BitVec 12) (r : Result) :
    aligned32 width off r = .refused .accessWidth :=
  if_pos h

theorem aligned32_of_misaligned {off : BitVec 12} (h : off.toNat % 4 ≠ 0) (r : Result) :
    aligned32 32 off r = .refused .accessAlignment := by
  simp [aligned32, h]

end Sys2Proof.Machine

namespace Sys2Proof.Proofs

open Sys2Proof.Machine

/-- Settles O45: whatever a read or a write would do, `aligned32` stands before it; a fetch has no other meaning. -/
theorem outsideAccessesAreRefused : Obligations.OutsideAccessesAreRefused := by
  intro s rest
  constructor
  · intro width off v hsched
    have haccess : ∃ r, step s = aligned32 width off r := by
      obtain hread | hwrite := hsched
      · exact ⟨_, step_cons hread⟩
      · exact ⟨_, step_cons hwrite⟩
    obtain ⟨r, hstep⟩ := haccess
    constructor
    · intro hwidth
      exact hstep.trans (aligned32_of_width_ne hwidth off r)
    · rintro rfl hoff
      exact hstep.trans (aligned32_of_misaligned hoff r)
  · intro off hfetch
    exact step_cons hfetch

end Sys2Proof.Proofs
end

section
/-! PROOFS. 30_encoding.md: the command word read by its fields (R140 to R144), match and mask (R143), and the
result words of the read-back commands (R150). -/

namespace Sys2Proof.Machine

variable {s : State} {c : Instr} {w m : Word} {b op : Byte} {k : Idx}

/-! ### A word is its three fields (R141) -/

theorem fields_append (w : Word) : rsvField w ++ idxField w ++ opField w = w := by
  rw [rsvField, idxField, opField, BitVec.extractLsb'_append_extractLsb'_eq_extractLsb' (show 17 = 8 + 9 from rfl),
    BitVec.extractLsb'_append_extractLsb'_eq_extractLsb' (show 8 = 0 + 8 from rfl), BitVec.extractLsb'_eq_self]

theorem eq_commandWord_iff : w = commandWord k op ↔ rsvField w = 0 ∧ idxField w = k ∧ opField w = op := by
  constructor
  · rintro rfl
    obtain ⟨hrsv, hop, hidx⟩ := Laws.WordFields.commandWord_fields k op
    exact ⟨hrsv, hidx, hop⟩
  · rintro ⟨hrsv, rfl, rfl⟩
    rw [commandWord, ← hrsv, fields_append]

/-! ### The decoder by fields (R140, R142) -/

/-- An index is a symbol's when its bit 8 is 0; the symbol is the rest of it (R142). -/
theorem eq_symbolIndex_iff : k = b.setWidth 9 ↔ k.getLsbD 8 = false ∧ k.extractLsb' 0 8 = b := by
  constructor
  · rintro rfl
    exact ⟨by simp, by rw [BitVec.extractLsb'_setWidth_of_le (by decide), BitVec.extractLsb'_eq_self]⟩
  · rintro ⟨hbit, rfl⟩
    ext i hi
    obtain hlow | rfl : i < 8 ∨ i = 8 := by omega
    · simp [BitVec.getLsbD_eq_getElem, hlow, hi]
    · simpa using hbit

/-- A decoded command's opcode and index are the word's fields, and no other bit of the word is set. -/
theorem decodeWord_fields (h : decodeWord w = .ok c) :
    rsvField w = 0 ∧ idxField w = indexOf c ∧ opField w = opcodeOf c := by
  unfold decodeWord at h
  split at h <;> rename_i hop
  case h_7 => -- RDNODE
    obtain ⟨hrsv, -, rfl⟩ := decodeNode_eq_ok.mp h
    exact ⟨hrsv, rfl, BitVec.eq_of_toNat_eq hop⟩
  case h_4 | h_5 | h_9 => -- the commands that take a symbol
    obtain ⟨hrsv, hbit, rfl⟩ := decodeSymbol_eq_ok.mp h
    exact ⟨hrsv, eq_symbolIndex_iff.mpr ⟨hbit, rfl⟩, BitVec.eq_of_toNat_eq hop⟩
  case h_13 => cases h -- a reserved opcode
  all_goals
    obtain ⟨hrsv, hidx, rfl⟩ := decodeNoIndex_eq_ok.mp h
    exact ⟨hrsv, hidx, BitVec.eq_of_toNat_eq hop⟩

theorem decodeWord_eq_ok_iff : decodeWord w = .ok c ↔ c.WellFormed ∧ w = encodeWord c := by
  constructor
  · exact fun h => ⟨decodeWord_wellFormed h, eq_commandWord_iff.mpr (decodeWord_fields h)⟩
  · rintro ⟨hwf, rfl⟩
    exact decodeWord_encodeWord hwf

/-! ### Match and mask (R143) -/

/-- A masked word has the opcode in bits 7:0 and zeros above it exactly when its fields, each masked, do. -/
theorem and_eq_opcodeWord_iff : w &&& m = commandWord 0 op ↔
    rsvField w &&& rsvField m = 0 ∧ idxField w &&& idxField m = 0 ∧ opField w &&& opField m = op := by
  rw [eq_commandWord_iff, rsvField, idxField, opField, BitVec.extractLsb'_and, BitVec.extractLsb'_and,
    BitVec.extractLsb'_and]
  rfl

theorem and_bit8_eq_zero_iff : k &&& 0x100 = 0 ↔ k.getLsbD 8 = false := by
  rw [show (0x100 : Idx) = BitVec.twoPow 9 8 from rfl, BitVec.and_twoPow]
  cases k.getLsbD 8 <;> decide

theorem symbolMask_iff : w &&& 0xFFFF00FF = commandWord 0 op ↔
    rsvField w = 0 ∧ (idxField w).getLsbD 8 = false ∧ opField w = op := by
  rw [and_eq_opcodeWord_iff, ← and_bit8_eq_zero_iff, show rsvField 0xFFFF00FF = BitVec.allOnes 15 from rfl,
    show idxField 0xFFFF00FF = 0x100 from rfl, show opField 0xFFFF00FF = BitVec.allOnes 8 from rfl,
    BitVec.and_allOnes, BitVec.and_allOnes]

theorem nodeMask_iff : w &&& 0xFFFE00FF = commandWord 0 op ↔ rsvField w = 0 ∧ opField w = op := by
  rw [and_eq_opcodeWord_iff, show rsvField 0xFFFE00FF = BitVec.allOnes 15 from rfl,
    show idxField 0xFFFE00FF = 0 from rfl, show opField 0xFFFE00FF = BitVec.allOnes 8 from rfl,
    BitVec.and_allOnes, BitVec.and_allOnes]
  simp

theorem decodeWord_eq_ok_iff_fullMask (hwf : c.WellFormed) :
    decodeWord w = .ok c ↔ w &&& 0xFFFFFFFF = encodeWord c := by
  rw [decodeWord_eq_ok_iff, show (0xFFFFFFFF : Word) = BitVec.allOnes 32 from rfl, BitVec.and_allOnes]
  exact and_iff_right hwf

theorem decodeWord_eq_ok_iff_symbolMask (hwf : c.WellFormed) (hidx : indexOf c = b.setWidth 9)
    (hop : opcodeOf c = op) :
    decodeWord w = .ok c ↔ w &&& 0xFFFF00FF = commandWord 0 op ∧ w.extractLsb' 8 8 = b := by
  have hsym : w.extractLsb' 8 8 = (idxField w).extractLsb' 0 8 := by
    ext i hi
    simp [idxField, show i < 9 by omega]
  rw [decodeWord_eq_ok_iff, encodeWord, hidx, hop, eq_commandWord_iff, eq_symbolIndex_iff, symbolMask_iff, hsym]
  tauto

theorem decodeWord_eq_ok_rdnode_iff : decodeWord w = .ok (.rdnode k) ↔
    w &&& 0xFFFE00FF = commandWord 0 0x11 ∧ idxField w = k ∧ k ≠ Config.noneIdx := by
  rw [decodeWord_eq_ok_iff, encodeWord, eq_commandWord_iff, nodeMask_iff]
  constructor
  · rintro ⟨hwf, hrsv, hidx, hop⟩
    exact ⟨⟨hrsv, hop⟩, hidx, hwf⟩
  · rintro ⟨⟨hrsv, hop⟩, hidx, hwf⟩
    exact ⟨hwf, hrsv, hidx, hop⟩

/-! ### The result words (R150) -/

theorem nodeWord_sym (n : Node) : (nodeWord n).extractLsb' 0 8 = n.sym := by
  rw [nodeWord, BitVec.extractLsb'_append_eq_right]

theorem nodeWord_left (n : Node) : (nodeWord n).extractLsb' 8 9 = refBits n.left := by
  rw [nodeWord, BitVec.extractLsb'_append_eq_of_le (by decide), BitVec.extractLsb'_append_eq_right]

theorem nodeWord_right (n : Node) : (nodeWord n).extractLsb' 17 9 = refBits n.right := by
  rw [nodeWord, BitVec.extractLsb'_append_eq_of_le (by decide), BitVec.extractLsb'_append_eq_of_le (by decide),
    BitVec.extractLsb'_append_eq_right]

theorem nodeWord_zeros (n : Node) : (nodeWord n).extractLsb' 26 4 = 0 := by
  rw [nodeWord, BitVec.extractLsb'_append_eq_of_le (by decide), BitVec.extractLsb'_append_eq_of_le (by decide),
    BitVec.extractLsb'_append_eq_of_le (by decide), BitVec.extractLsb'_append_eq_right]

theorem nodeWord_leaf (n : Node) : (nodeWord n).getLsbD 30 = n.leaf := by
  simp only [nodeWord, BitVec.getLsbD_append]
  simp

theorem nodeWord_used (n : Node) : (nodeWord n).getLsbD 31 = n.used := by
  simp only [nodeWord, BitVec.getLsbD_append]
  simp

theorem codeWord_len (e : CodeEntry) : (codeWord e).extractLsb' 0 7 = e.len := by
  rw [codeWord, BitVec.extractLsb'_append_eq_right]

theorem codeWord_zeros (e : CodeEntry) : (codeWord e).extractLsb' 7 24 = 0 := by
  rw [codeWord, BitVec.extractLsb'_append_eq_of_le (by decide), BitVec.extractLsb'_append_eq_right]

theorem codeWord_valid (e : CodeEntry) : (codeWord e).getLsbD 31 = e.valid := by
  simp only [codeWord, BitVec.getLsbD_append]
  simp

theorem refBits_fieldNames (r : NodeRef) : Claims.FieldNames (refBits r) r := by
  cases r with
  | none => rfl
  | some i => exact refBits_some i

/-- A single-step command's turn at acceptance is its whole body. -/
theorem runCommand_atStart {p : Bool} {a : State → State} {body : State → Result} (h : AtStart s) :
    runCommand c p a (singleStep body) s = body s :=
  (runCommand_busy h.1).trans (singleStep_start h.2)

end Sys2Proof.Machine

namespace Sys2Proof.Proofs

open Sys2Proof.Machine

/-- Settles O1: each of the decoder's three forms meets its operand's range, by the word's fields. -/
theorem decodeOfEncodeIsTheCommand : Obligations.DecodeOfEncodeIsTheCommand :=
  fun _ => decodeWord_encodeWord

/-- Settles O2: the three fields a command is decoded from are the whole word. -/
theorem encodeOfDecodeIsTheWord : Obligations.EncodeOfDecodeIsTheWord := by
  intro w c h
  obtain ⟨hwf, hw⟩ := decodeWord_eq_ok_iff.mp h
  exact ⟨hwf, hw.symm⟩

/-- Settles O3: a command is decoded from its own word alone, and match and mask say which word that is. -/
theorem commandsAreTheMatchedWords : Obligations.CommandsAreTheMatchedWords := by
  intro w
  refine ⟨?nop, ?clrfreq, ?count, ?wrfreq, ?rdfreq, ?build, ?rdnode, ?gencode, ?rdcode, ?emithdr, ?encode, ?decode⟩
  case rdnode => exact fun k => decodeWord_eq_ok_rdnode_iff
  case wrfreq => exact fun b => decodeWord_eq_ok_iff_symbolMask (op := 0x03) trivial rfl rfl
  case rdfreq => exact fun b => decodeWord_eq_ok_iff_symbolMask (op := 0x04) trivial rfl rfl
  case rdcode => exact fun b => decodeWord_eq_ok_iff_symbolMask (op := 0x21) trivial rfl rfl
  all_goals exact decodeWord_eq_ok_iff_fullMask trivial

/-- Settles O14: each body is `setResult` and `finish`, and `nodeWord` and `codeWord` have the fields of R150. -/
theorem readBackCommandsWriteTheResultWords : Obligations.ReadBackCommandsWriteTheResultWords := by
  intro s h
  refine ⟨fun b => runCommand_atStart h, fun k i hk => ?rdnode, fun b => ?rdcode⟩
  case rdnode =>
    refine ⟨nodeWord s.node[i], ?_, nodeWord_sym _, ?_, ?_, nodeWord_zeros _, nodeWord_leaf _, nodeWord_used _⟩
    · exact (execRdnode_some (refOfBits_some hk)).trans (runCommand_atStart h)
    · exact nodeWord_left s.node[i] ▸ refBits_fieldNames _
    · exact nodeWord_right s.node[i] ▸ refBits_fieldNames _
  case rdcode =>
    exact ⟨codeWord (symGet s.code b), runCommand_atStart h, codeWord_len _, codeWord_zeros _, codeWord_valid _⟩

end Sys2Proof.Proofs
end

section
/-! PROOFS. 40_frequency.md: the bodies of NOP, CLRFREQ, COUNT and WRFREQ (R200 to R210). -/

namespace Sys2Proof.Machine

variable {s : State} {b : Byte} {k : Token} {rest : List Token}

/-! ### COUNT (R205) -/

theorem countBody_accepted (h : s.point = .accepted) : countBody s = .next (goto .countPop s) := by
  simp [countBody, h]

theorem countBody_wait (hp : s.point = .countPop) (h : s.inFifo = []) : countBody s = .next s := by
  simp [countBody, hp, popIn_nil h]

theorem countBody_pop (hp : s.point = .countPop) (h : s.inFifo = k :: rest) :
    countBody s = .next (countToken k { s with inFifo := rest }) := by
  simp [countBody, hp, popIn_cons h]

theorem countToken_overflow (h : s.total = Config.cntMax) :
    countToken (.data b) s = raiseError .countOverflow s :=
  if_pos h

theorem countToken_counted (h : s.total ≠ Config.cntMax) :
    countToken (.data b) s = { s with
      nsym := if symGet s.freq b = 0 then s.nsym + 1 else s.nsym
      freq := symPut s.freq b (symGet s.freq b + 1)
      total := s.total + 1 } :=
  if_neg h

/-! ### WRFREQ (R210) -/

/-- The exact sum of the new table: the other entries and the written one. -/
theorem freqSum_symPut_eq_others (f : SymTable Word) (b : Byte) (v : Word) :
    freqSum (symPut f b v) = freqSum (symPut f b 0) + v.toNat := by
  have hput := freqSum_symPut f b v
  have hzero : freqSum (symPut f b 0) + (symGet f b).toNat = freqSum f := freqSum_symPut f b 0
  omega

theorem wrfreqBody_fits (h : freqSum (symPut s.freq b s.larg) ≤ Config.cntMax.toNat) :
    wrfreqBody b s = finish { s with
      freq := symPut s.freq b s.larg
      total := BitVec.ofNat 32 (freqSum (symPut s.freq b s.larg))
      nsym := BitVec.ofNat 9 (freqCount (symPut s.freq b s.larg))
      treeValid := false
      codesValid := false } :=
  if_pos h

theorem wrfreqBody_overflow (h : Config.cntMax.toNat < freqSum (symPut s.freq b s.larg)) :
    wrfreqBody b s = raiseError .countOverflow s :=
  if_neg (Nat.not_le.mpr h)

end Sys2Proof.Machine

namespace Sys2Proof.Proofs

open Sys2Proof.Machine

/-- Settles O13: the sum the body compares with CNT_MAX is that of the other entries and LARG. -/
theorem wrfreqReplacesOneEntry : Obligations.WrfreqReplacesOneEntry := by
  intro s b hstart others
  have hsum : freqSum (symPut s.freq b s.larg) = others + s.larg.toNat := freqSum_symPut_eq_others s.freq b s.larg
  have hexec : exec (.wrfreq b) s = .next (wrfreqBody b s) := runCommand_atStart hstart
  rw [hexec, ← hsum]
  constructor
  · intro hfits
    refine ⟨symPut s.freq b s.larg, symGet_symPut_self .., fun x hx => symGet_symPut_ne _ _ hx, ?_⟩
    exact congrArg _ (wrfreqBody_fits hfits)
  · intro hover
    exact congrArg _ (wrfreqBody_overflow hover)

/-- Settles O11: both are single-step commands, and CLRFREQ's table is 0 everywhere. -/
theorem nopAndClrfreqBodiesEndInOneStep : Obligations.NopAndClrfreqBodiesEndInOneStep := by
  intro s hstart
  constructor
  · exact runCommand_atStart hstart
  · exact ⟨Vector.replicate 256 0, fun b => symGet_replicate b 0, runCommand_atStart hstart⟩

/-- Settles O12: by the program point, the input FIFO and the token at its head. -/
theorem countTakesOneToken : Obligations.CountTakesOneToken := by
  intro s hb
  have hexec : exec .count s = countBody s := runCommand_busy hb
  rw [hexec]
  refine ⟨countBody_accepted, countBody_wait, fun rest => countBody_pop, ?overflow, ?counted⟩
  case overflow =>
    intro b rest hp hfifo hmax
    exact (countBody_pop hp hfifo).trans (congrArg _ (countToken_overflow hmax))
  case counted =>
    intro b rest hp hfifo hmax
    refine ⟨symPut s.freq b (symGet s.freq b + 1), symGet_symPut_self .., fun x hx => symGet_symPut_ne _ _ hx, ?_⟩
    exact (countBody_pop hp hfifo).trans (congrArg _ (countToken_counted hmax))

end Sys2Proof.Proofs
end

section
/-! PROOFS. 41_tree_builder.md: selection (R234), and the arena BUILD makes, record by record (R232, R240). -/

namespace Sys2Proof.Machine

open Sys2Proof.Claims (KeyLe)

variable {a a' : Arena} {k i j x y z : Fin 511} {m n l : Nat} {set : List (Fin 511)} {f : SymTable Word} {b : Byte}
  {s t : State}

/-! ### The key order (R234) -/

theorem keyLe_refl (a : Arena) (i : Fin 511) : KeyLe a i i := .inr ⟨rfl, le_rfl⟩

theorem keyLe_trans (hij : KeyLe a i j) (hjk : KeyLe a j k) : KeyLe a i k := by
  obtain hij | ⟨ew, hij⟩ := hij
  · obtain hjk | ⟨ew, -⟩ := hjk
    · exact .inl (BitVec.lt_trans hij hjk)
    · exact .inl (ew ▸ hij)
  · obtain hjk | ⟨ew', hjk⟩ := hjk
    · exact .inl (ew ▸ hjk)
    · exact .inr ⟨ew.trans ew', hij.trans hjk⟩

theorem keyLe_of_keyBefore (h : keyBefore a i j = true) : KeyLe a i j :=
  (of_decide_eq_true h).imp id fun h => ⟨h.1, h.2.le⟩

theorem keyLe_of_not_keyBefore (h : ¬keyBefore a j i = true) : KeyLe a i j := by
  obtain ⟨hw, hi⟩ := not_or.mp (mt decide_eq_true h)
  have hle : (a[i]).weight < (a[j]).weight ∨ (a[i]).weight = (a[j]).weight := by bv_omega
  obtain hlt | heq := hle
  · exact .inl hlt
  · exact .inr ⟨heq, not_lt.mp fun hji => hi ⟨heq.symm, hji⟩⟩

theorem keyLe_congr (hi : a'[i] = a[i]) (hj : a'[j] = a[j]) : KeyLe a' i j ↔ KeyLe a i j := by
  rw [KeyLe, KeyLe, hi, hj]

/-! ### Selection (R234) -/

/-- `x` is the entry of the set with the least key. -/
def LeastIn (a : Arena) (set : List (Fin 511)) (x : Fin 511) : Prop := x ∈ set ∧ ∀ y ∈ set, KeyLe a x y

theorem leastKey_le (a : Arena) (i : Fin 511) (rest : List (Fin 511)) :
    ∀ y ∈ i :: rest, KeyLe a (leastKey a i rest) y := by
  induction rest generalizing i with
  | nil =>
    intro y hy
    rw [List.mem_singleton.mp hy]
    exact keyLe_refl a i
  | cons j rest ih =>
    have hnext : leastKey a i (j :: rest) = leastKey a (if keyBefore a j i then j else i) rest := rfl
    have hmin : KeyLe a (if keyBefore a j i then j else i) i ∧ KeyLe a (if keyBefore a j i then j else i) j := by
      split
      · next h => exact ⟨keyLe_of_keyBefore h, keyLe_refl a j⟩
      · next h => exact ⟨keyLe_refl a i, keyLe_of_not_keyBefore h⟩
    have hhead := ih (if keyBefore a j i then j else i) _ List.mem_cons_self
    rw [hnext]
    intro y hy
    obtain rfl | hy := List.mem_cons.mp hy
    · exact keyLe_trans hhead hmin.1
    · obtain rfl | hy := List.mem_cons.mp hy
      · exact keyLe_trans hhead hmin.2
      · exact ih _ y (List.mem_cons_of_mem _ hy)

/-- Everything `takeLeast` can answer, and that what it takes is least. -/
theorem takeLeast_least (a : Arena) (set : List (Fin 511)) :
    (set = [] ∧ takeLeast a set = none) ∨ ∃ x, LeastIn a set x ∧ takeLeast a set = some (x, set.erase x) := by
  cases set with
  | nil => exact .inl ⟨rfl, rfl⟩
  | cons i rest => exact .inr ⟨_, ⟨leastKey_mem a i rest, leastKey_le a i rest⟩, rfl⟩

/-! ### Available records (R240) -/

/-- Record `i` has `j` as a child. -/
abbrev IsChild (a : Arena) (i j : Fin 511) : Prop := (a[i]).left = some j ∨ (a[i]).right = some j

/-- Record `j` is in the working set before record `k` is made: it is used and no internal record before `k` has taken
it as a child. -/
abbrev Available (a : Arena) (k : Nat) (j : Fin 511) : Prop :=
  j.val < k ∧ (a[j]).used = true ∧ ∀ i : Fin 511, 256 ≤ i.val → i.val < k → ¬IsChild a i j

/-- Record `k` is the merge of `x` and `y`, the two least records available. -/
structure MergesLeastTwo (a : Arena) (k x y : Fin 511) : Prop where
  record : a[k] = innerNode (some x) (some y) ((a[x]).weight + (a[y]).weight)
  ne : x ≠ y
  first : Available a k x
  second : Available a k y
  ordered : KeyLe a x y
  least : ∀ j, Available a k j → j ≠ x → KeyLe a y j

/-- The arena BUILD has made from FREQ before it makes record `m`. -/
structure GreedyTo (f : SymTable Word) (a : Arena) (m : Nat) : Prop where
  leaf : ∀ b, a[leafIndex b] = if symGet f b = 0 then Node.blank else leafNode b (symGet f b)
  inner : ∀ i : Fin 511, 256 ≤ i.val → i.val < m → ∃ x y, MergesLeastTwo a i x y
  blank : ∀ i : Fin 511, 256 ≤ i.val → m ≤ i.val → a[i] = Node.blank

theorem leafIndex_lt (b : Byte) : (leafIndex b).val < 256 := b.isLt

theorem exists_leafIndex (h : i.val < 256) : ∃ b, i = leafIndex b :=
  ⟨BitVec.ofNat 8 i.val, Fin.ext (Nat.mod_eq_of_lt h).symm⟩

theorem mem_presentSymbols : b ∈ presentSymbols f ↔ symGet f b ≠ 0 := by
  simp [presentSymbols, mem_allSymbols]

/-- Availability looks at earlier records only. -/
theorem Available.congr (h : ∀ i : Fin 511, i.val < m → a'[i] = a[i]) (hl : l ≤ m) :
    Available a' l j ↔ Available a l j := by
  refine and_congr_right fun hj => ?_
  rw [h j (hj.trans_le hl)]
  refine and_congr_right fun _ => forall_congr' fun i => imp_congr_right fun _ => imp_congr_right fun hi => ?_
  rw [IsChild, IsChild, h i (hi.trans_le hl)]

theorem MergesLeastTwo.congr (hm : MergesLeastTwo a i x y) (h : ∀ i : Fin 511, i.val < m → a'[i] = a[i])
    (hi : i.val < m) : MergesLeastTwo a' i x y := by
  have hav (j : Fin 511) : Available a' i j ↔ Available a i j := Available.congr h hi.le
  have hget {j : Fin 511} (hj : Available a i j) : a'[j] = a[j] := h j (hj.1.trans hi)
  refine ⟨?_, hm.ne, (hav x).mpr hm.first, (hav y).mpr hm.second, ?_, fun j hj hne => ?_⟩
  · rw [h i hi, hget hm.first, hget hm.second]
    exact hm.record
  · exact (keyLe_congr (hget hm.first) (hget hm.second)).mpr hm.ordered
  · have hj := (hav j).mp hj
    exact (keyLe_congr (hget hm.second) (hget hj)).mpr (hm.least j hj hne)

theorem MergesLeastTwo.isChild_iff (h : MergesLeastTwo a k x y) : IsChild a k j ↔ j = x ∨ j = y := by
  rw [IsChild, h.record]
  simp [innerNode, eq_comm]

theorem MergesLeastTwo.used (h : MergesLeastTwo a k x y) : (a[k]).used = true := by
  rw [h.record]; rfl

/-- Children are earlier records. -/
theorem GreedyTo.lt_of_isChild (h : GreedyTo f a m) (hi : 256 ≤ i.val) (him : i.val < m) (hc : IsChild a i j) :
    j.val < i.val := by
  obtain ⟨x, y, hm⟩ := h.inner i hi him
  obtain rfl | rfl := hm.isChild_iff.mp hc
  · exact hm.first.1
  · exact hm.second.1

/-- A record just made is available. -/
theorem GreedyTo.available_succ_self (h : GreedyTo f a m) (hk : k.val < m) (hu : (a[k]).used = true) :
    Available a (k.val + 1) k := by
  refine ⟨Nat.lt_succ_self _, hu, fun i hi hik hc => ?_⟩
  have := h.lt_of_isChild hi (by omega) hc
  omega

/-- A merge takes its two children out of the available records and adds the record it makes. -/
theorem GreedyTo.available_succ_iff (h : GreedyTo f a m) (hk : 256 ≤ k.val) (hkm : k.val < m)
    (hm : MergesLeastTwo a k x y) : Available a (k.val + 1) j ↔ j = k ∨ (Available a k j ∧ j ≠ x ∧ j ≠ y) := by
  constructor
  · rintro ⟨hj, hu, hno⟩
    refine or_iff_not_imp_left.mpr fun hne => ⟨⟨?_, hu, fun i hi hik => hno i hi (by omega)⟩, ?_⟩
    · have := Fin.val_ne_of_ne hne
      omega
    · exact not_or.mp fun hxy => hno k hk (Nat.lt_succ_self _) (hm.isChild_iff.mpr hxy)
  · rintro (rfl | ⟨⟨hj, hu, hno⟩, hxy⟩)
    · exact h.available_succ_self hkm hm.used
    · refine ⟨hj.trans (Nat.lt_succ_self _), hu, fun i hi hik hc => ?_⟩
      obtain rfl | hne := eq_or_ne i k
      · exact not_or.mpr hxy (hm.isChild_iff.mp hc)
      · have := Fin.val_ne_of_ne hne
        exact hno i hi (by omega) hc

/-! ### One merge (R240) -/

/-- The arena with the merge of `x` and `y` written at record `k`. -/
def writeMerge (a : Arena) (k x y : Fin 511) : Arena :=
  a.set k (innerNode (some x) (some y) ((a[x]).weight + (a[y]).weight))

theorem writeMerge_get_self (a : Arena) (k x y : Fin 511) :
    (writeMerge a k x y)[k] = innerNode (some x) (some y) ((a[x]).weight + (a[y]).weight) := by
  rw [writeMerge, arena_set_get, if_pos rfl]

theorem writeMerge_get_ne (h : i ≠ k) : (writeMerge a k x y)[i] = a[i] := by
  rw [writeMerge, arena_set_get, if_neg h.symm]

theorem writeMerge_get_lt (h : i.val < k.val) : (writeMerge a k x y)[i] = a[i] :=
  writeMerge_get_ne (Fin.ne_of_lt h)

/-- Once the merge of the two least is written at record `k`, the arena is as BUILD makes it up to `k`. -/
theorem GreedyTo.merge (h : GreedyTo f a k) (hk : 256 ≤ k.val) (hm : MergesLeastTwo (writeMerge a k x y) k x y) :
    GreedyTo f (writeMerge a k x y) (k.val + 1) := by
  refine ⟨fun b => ?leaf, fun i hi hik => ?inner, fun i hi hki => ?blank⟩
  case leaf =>
    rw [writeMerge_get_lt ((leafIndex_lt b).trans_le hk)]
    exact h.leaf b
  case inner =>
    obtain hlt | heq := Nat.lt_or_eq_of_le (Nat.le_of_lt_succ hik)
    · obtain ⟨u, v, huv⟩ := h.inner i hi hlt
      exact ⟨u, v, huv.congr (fun j => writeMerge_get_lt) hlt⟩
    · obtain rfl := Fin.ext heq
      exact ⟨x, y, hm⟩
  case blank =>
    rw [writeMerge_get_ne (Fin.ne_of_gt hki)]
    exact h.blank i hi (Nat.le_of_succ_le hki)

/-! ### The merge loop (R240) -/

/-- The loop before it makes record `m`: the working set lists the available records. -/
structure MergeLoop (f : SymTable Word) (a : Arena) (m : Nat) (set : List (Fin 511)) : Prop extends GreedyTo f a m where
  start : 256 ≤ m
  nodup : set.Nodup
  mem : ∀ j, j ∈ set ↔ Available a m j
  length : set.length + m = 256 + (presentSymbols f).length

section
variable (h : MergeLoop f a k set) (hx : LeastIn a set x) (hy : LeastIn a (set.erase x) y)
include h hx hy

/-- The two entries selected one after the other are the two least available. -/
theorem MergeLoop.mergesLeastTwo : MergesLeastTwo (writeMerge a k x y) k x y := by
  obtain ⟨hxmem, hxle⟩ := hx
  obtain ⟨hymem, hyle⟩ := hy
  obtain ⟨hyx, hyset⟩ := h.nodup.mem_erase_iff.mp hymem
  have hset {j : Fin 511} : j ∈ set ↔ Available (writeMerge a k x y) k j :=
    (h.mem j).trans (Available.congr (fun i => writeMerge_get_lt) le_rfl).symm
  have hold {j : Fin 511} (hj : j ∈ set) : (writeMerge a k x y)[j] = a[j] := writeMerge_get_lt ((h.mem j).mp hj).1
  refine ⟨?_, hyx.symm, hset.mp hxmem, hset.mp hyset, ?_, fun j hj hne => ?_⟩
  · rw [hold hxmem, hold hyset, writeMerge_get_self]
  · exact (keyLe_congr (hold hxmem) (hold hyset)).mpr (hxle y hyset)
  · have hj := hset.mpr hj
    exact (keyLe_congr (hold hyset) (hold hj)).mpr (hyle j (h.nodup.mem_erase_iff.mpr ⟨hne, hj⟩))

theorem MergeLoop.merge : MergeLoop f (writeMerge a k x y) (k.val + 1) ((set.erase x).erase y ++ [k]) := by
  have hmerge := h.mergesLeastTwo hx hy
  have hgreedy := h.toGreedyTo.merge h.start hmerge
  have hrest {j : Fin 511} :
      j ∈ (set.erase x).erase y ↔ Available (writeMerge a k x y) k j ∧ j ≠ x ∧ j ≠ y := by
    rw [(h.nodup.erase x).mem_erase_iff, h.nodup.mem_erase_iff, h.mem,
      Available.congr (fun i => writeMerge_get_lt) le_rfl]
    tauto
  refine ⟨hgreedy, Nat.le_succ_of_le h.start, ?nodup, fun j => ?mem, ?length⟩
  case nodup =>
    refine ((h.nodup.erase x).erase y).append (List.nodup_singleton k) ?_
    exact List.disjoint_singleton.mpr fun hmem => (hrest.mp hmem).1.1.false
  case mem =>
    rw [hgreedy.available_succ_iff h.start (Nat.lt_succ_self _) hmerge, List.mem_append, List.mem_singleton, hrest,
      or_comm]
  case length =>
    have hlen1 := List.length_erase_of_mem hx.1
    have hlen2 := List.length_erase_of_mem hy.1
    have hpos := List.length_pos_of_mem hy.1
    have hlength := h.length
    rw [List.length_append, List.length_singleton]
    omega

end

/-- The loop ends with at most one entry, and its result is that entry. -/
theorem mergeAll_mergeLoop (h : MergeLoop f a m set) (hn : set.length ≤ n) (hk : 2 ≤ set.length → k.val = m) :
    ∃ m' set', MergeLoop f (mergeAll n a k set).1 m' set' ∧ set'.length = min 1 set.length ∧
      (mergeAll n a k set).2 = set'.head? := by
  induction n generalizing a k m set with
  | zero =>
    obtain rfl := List.eq_nil_of_length_eq_zero (Nat.le_zero.mp hn)
    exact ⟨m, [], h, rfl, rfl⟩
  | succ n ih =>
    rw [mergeAll]
    obtain ⟨rfl, ht⟩ | ⟨x, hx, ht⟩ := takeLeast_least a set <;> simp only [ht]
    · exact ⟨m, [], h, rfl, rfl⟩
    · have hlen1 := List.length_erase_of_mem hx.1
      obtain ⟨he, ht'⟩ | ⟨y, hy, ht'⟩ := takeLeast_least a (set.erase x) <;> simp only [ht']
      · have hone : set = [x] := by
          have hpos := List.length_pos_of_mem hx.1
          rw [he, List.length_nil] at hlen1
          obtain ⟨z, rfl⟩ := List.length_eq_one_iff.mp (show set.length = 1 by omega)
          rw [List.mem_singleton.mp hx.1]
        subst hone
        exact ⟨m, [x], h, rfl, rfl⟩
      · have hlen2 := List.length_erase_of_mem hy.1
        have hpos := List.length_pos_of_mem hy.1
        obtain rfl := hk (by omega)
        have hlen : ((set.erase x).erase y ++ [k]).length + 1 = set.length := by
          rw [List.length_append, List.length_singleton]; omega
        obtain ⟨m', set', hloop, hlength, hroot⟩ := ih (k := k + 1) (h.merge hx hy) (by omega) fun h3 => by
          have hpresent := presentSymbols_length f
          have hlength := h.length
          exact Fin.val_add_one_of_lt' (by omega)
        exact ⟨m', set', hloop, by omega, hroot⟩

/-! ### The leaves (R232) -/

theorem allSymbols_nodup : allSymbols.Nodup := by
  refine List.Nodup.map_on (fun i hi j hj h => ?_) List.nodup_range
  have h := congrArg BitVec.toNat h
  rwa [BitVec.toNat_ofNat, BitVec.toNat_ofNat, Nat.mod_eq_of_lt (List.mem_range.mp hi),
    Nat.mod_eq_of_lt (List.mem_range.mp hj)] at h

theorem presentSymbols_nodup (f : SymTable Word) : (presentSymbols f).Nodup := allSymbols_nodup.filter _

theorem seedLeaves_greedyTo (f : SymTable Word) : GreedyTo f (seedLeaves f) 256 := by
  rw [seedLeaves_eq]
  refine ⟨fun b => ?leaf, fun i hi hi' => absurd hi' (Nat.not_lt.mpr hi), fun i hi _ => ?blank⟩
  case leaf =>
    split
    · next h =>
      refine seedOf_blank fun c hc e => ?_
      rw [leafIndex_inj e] at hc
      exact mem_presentSymbols.mp hc h
    · next h => exact seedOf_leaf (mem_presentSymbols.mpr h)
  case blank =>
    refine seedOf_blank ?_
    rintro b - rfl
    exact absurd (leafIndex_lt b) (Nat.not_lt.mpr hi)

/-- Before the first merge the leaves of the present symbols are available. -/
theorem GreedyTo.available_leaves_iff (h : GreedyTo f a m) :
    Available a 256 j ↔ ∃ b, symGet f b ≠ 0 ∧ leafIndex b = j := by
  constructor
  · rintro ⟨hj, hu, -⟩
    obtain ⟨b, rfl⟩ := exists_leafIndex hj
    refine ⟨b, fun hzero => ?_, rfl⟩
    rw [h.leaf, if_pos hzero] at hu
    cases hu
  · rintro ⟨b, hb, rfl⟩
    refine ⟨leafIndex_lt b, ?_, fun i hi hi' => absurd hi' (Nat.not_lt.mpr hi)⟩
    rw [h.leaf, if_neg hb]
    rfl

theorem seedLeaves_mergeLoop (f : SymTable Word) :
    MergeLoop f (seedLeaves f) 256 ((presentSymbols f).map leafIndex) := by
  have h := seedLeaves_greedyTo f
  refine ⟨h, le_rfl, (presentSymbols_nodup f).map fun b c => leafIndex_inj, fun j => ?_, ?_⟩
  · simp only [h.available_leaves_iff, List.mem_map, mem_presentSymbols]
  · rw [List.length_map, Nat.add_comm]

/-- What BUILD leaves: the loop's last arena, with ROOT the one entry left, none for no symbol. -/
theorem buildTree_mergeLoop (f : SymTable Word) :
    ∃ m set, MergeLoop f (buildTree f).1 m set ∧ set.length = min 1 (presentSymbols f).length ∧
      (buildTree f).2 = set.head? := by
  obtain ⟨m, set, h, hlen, hroot⟩ :=
    mergeAll_mergeLoop (k := 256) (seedLeaves_mergeLoop f) (List.length_map ..).le fun _ => rfl
  rw [List.length_map] at hlen
  exact ⟨m, set, h, hlen, hroot⟩

/-! ### FREQ as a list of symbols -/

theorem map_symGet_allSymbols (f : SymTable Word) : allSymbols.map (symGet f) = f.toList := by
  refine List.ext_getElem (by simp [allSymbols]) fun i hi hi' => ?_
  have hlt : i < 256 := by simpa using hi'
  simp [allSymbols, symGet, Nat.mod_eq_of_lt hlt]

theorem freqCount_eq (f : SymTable Word) : freqCount f = (presentSymbols f).length := by
  rw [freqCount, ← map_symGet_allSymbols, List.countP_map, presentSymbols, ← List.countP_eq_length_filter]
  rfl

/-- BUILD's body runs in the step after acceptance (R241). -/
theorem exec_build_atStart (h : AtStart s) : exec .build s = .next (buildBody s) := runCommand_atStart h

theorem exec_build_next (h : AtStart s) (ht : exec .build s = .next t) : t = buildBody s :=
  Host.Outcome.next.inj (ht.symm.trans (exec_build_atStart h))

theorem buildBody_node (s : State) : (buildBody s).node = (buildTree s.freq).1 := rfl

end Sys2Proof.Machine

namespace Sys2Proof.Proofs

open Sys2Proof.Machine

/-- Settles O15: the body writes `buildTree` of FREQ and the flags. -/
theorem buildCompletesAndKeepsTheRest : Obligations.BuildCompletesAndKeepsTheRest :=
  ⟨buildTree, fun _ hstart => exec_build_atStart hstart⟩

/-- Settles O16: the fold keeps the least entry met so far. -/
theorem selectionTakesTheLeastKey : Obligations.SelectionTakesTheLeastKey := by
  intro a set
  obtain ⟨rfl, ht⟩ | ⟨x, ⟨hmem, hle⟩, ht⟩ := takeLeast_least a set
  · exact ⟨fun _ => ht, fun hne => absurd rfl hne⟩
  · exact ⟨fun he => absurd hmem (he ▸ List.not_mem_nil), fun _ => ⟨x, ht, hmem, hle⟩⟩

/-- Settles O17: the records are those of the loop's last arena, and ROOT is the one record available in it. -/
theorem buildAllocatesLeavesAndInnerRecords : Obligations.BuildAllocatesLeavesAndInnerRecords := by
  intro s t hstart hexec
  obtain rfl := exec_build_next hstart hexec
  obtain ⟨m, set, hloop, hlen, hroot⟩ := buildTree_mergeLoop s.freq
  have hlength := hloop.length
  rw [← freqCount_eq] at hlen hlength
  have root_eq {i : Fin 511} (hi : Available (buildTree s.freq).1 m i) : (buildTree s.freq).2 = some i := by
    have hmem := (hloop.mem i).mpr hi
    have hpos := List.length_pos_of_mem hmem
    obtain ⟨z, rfl⟩ := List.length_eq_one_iff.mp (show set.length = 1 by omega)
    rw [hroot, List.mem_singleton.mp hmem]
    rfl
  refine ⟨fun b i hi => ?leaf, fun i hi him => ?inner, fun i hi him => ?blank, fun hzero => ?empty,
    fun hone b i hb hi => ?single, fun i htwo hi => ?merged⟩
  case leaf =>
    obtain rfl : i = leafIndex b := Fin.ext hi
    exact hloop.leaf b
  case inner =>
    obtain ⟨x, y, hm⟩ := hloop.inner i hi (by omega)
    rw [buildBody_node, hm.record]
    exact ⟨rfl, rfl, rfl, x, y, rfl, rfl, hm.first.1, hm.second.1⟩
  case blank => exact hloop.blank i hi (by omega)
  case empty =>
    obtain rfl : set = [] := List.eq_nil_of_length_eq_zero (by omega)
    exact hroot
  case single =>
    obtain rfl : i = leafIndex b := Fin.ext hi
    obtain rfl : m = 256 := by omega
    exact root_eq (hloop.available_leaves_iff.mpr ⟨b, hb, rfl⟩)
  case merged =>
    obtain rfl : m = i.val + 1 := by omega
    obtain ⟨x, y, hm⟩ := hloop.inner i (by omega) (Nat.lt_succ_self _)
    exact root_eq (hloop.available_succ_self (Nat.lt_succ_self _) hm.used)

/-- Settles O18: a record with children is one of the loop's merges, and later merges leave what it looked at. -/
theorem buildMergesTheTwoLeastAvailable : Obligations.BuildMergesTheTwoLeastAvailable := by
  intro s t hstart hexec childOf open_ k x y hk hx hy
  obtain rfl := exec_build_next hstart hexec
  obtain ⟨m, set, hloop, -, -⟩ := buildTree_mergeLoop s.freq
  have hkm : k.val < m := by
    refine Nat.lt_of_not_le fun hmk => ?_
    rw [buildBody_node, hloop.blank k hk hmk] at hx
    cases hx
  obtain ⟨x', y', hm⟩ := hloop.inner k hk hkm
  rw [buildBody_node, hm.record] at hx hy
  cases hx
  cases hy
  exact ⟨congrArg Node.weight hm.record, hm.ne, hm.first, hm.second, hm.ordered, hm.least⟩

end Sys2Proof.Proofs
end

section
/-! PROOFS. 41_tree_builder.md: the labels and weights of the tree BUILD makes (R233, R236, R237, R242). -/

namespace Sys2Proof.Machine

variable {a : Arena} {k i j x y : Fin 511} {m l : Nat} {set : List (Fin 511)} {f : SymTable Word} {b : Byte}

/-! ### Trees of the records BUILD writes -/

/-- A used record is a leaf that BUILD has seeded or a merge. -/
theorem GreedyTo.used_cases (h : GreedyTo f a m) (hu : (a[i]).used = true) :
    (∃ b, i = leafIndex b ∧ symGet f b ≠ 0 ∧ a[i] = leafNode b (symGet f b)) ∨
    (256 ≤ i.val ∧ i.val < m ∧ ∃ x y, MergesLeastTwo a i x y) := by
  obtain hi | hi := Nat.lt_or_ge i.val 256
  · obtain ⟨b, rfl⟩ := exists_leafIndex hi
    have hleaf := h.leaf b
    split at hleaf
    · rw [hleaf] at hu
      cases hu
    · next hb => exact .inl ⟨b, rfl, hb, hleaf⟩
  · obtain him | him := Nat.lt_or_ge i.val m
    · exact .inr ⟨hi, him, h.inner i hi him⟩
    · rw [h.blank i hi him] at hu
      cases hu

/-- Merging two trees read from earlier records gives the tree with those two below it. -/
theorem MergesLeastTwo.treeAt_record (h : MergesLeastTwo a k x y) {tx ty : Tree} (hx : treeAt (x.val + 1) a x = some tx)
    (hy : treeAt (y.val + 1) a y = some ty) : treeAt (k.val + 1) a k = some (.node tx ty) := by
  refine treeAt_node h.used ?_ ?_ ?_ (treeAt_mono h.first.1 hx) (treeAt_mono h.second.1 hy) <;> rw [h.record] <;> rfl

/-- Every used record heads a complete tree, as deep as its index at most (R242). -/
theorem GreedyTo.treeAt_of_used (h : GreedyTo f a m) (hu : (a[i]).used = true) :
    ∃ t, treeAt (i.val + 1) a i = some t := by
  induction i using WellFoundedLT.induction with
  | ind i ih =>
    obtain ⟨b, -, -, hleaf⟩ | ⟨-, -, x, y, hm⟩ := h.used_cases hu
    · exact ⟨_, treeAt_leaf hu (by rw [hleaf]; rfl)⟩
    · obtain ⟨tx, htx⟩ := ih x hm.first.1 hm.first.2.1
      obtain ⟨ty, hty⟩ := ih y hm.second.1 hm.second.2.1
      exact ⟨_, hm.treeAt_record htx hty⟩

/-! ### Labels (R233) -/

/-- The label of record `i`: the symbols of the leaves below it, with their multiplicity (R233). -/
def label (a : Arena) (i : Fin 511) : Multiset Byte := ((wholeTree a i).elim [] leafSymbols : List Byte)

theorem label_of_wholeTree {t : Tree} (h : wholeTree a i = some t) : label a i = (leafSymbols t : Multiset Byte) := by
  rw [label, h]
  rfl

theorem label_of_treeAt {t : Tree} (h : treeAt (i.val + 1) a i = some t) :
    label a i = (leafSymbols t : Multiset Byte) :=
  label_of_wholeTree (treeAt_mono i.isLt h)

theorem GreedyTo.label_leaf (h : GreedyTo f a m) (hb : symGet f b ≠ 0) : label a (leafIndex b) = {b} := by
  have hleaf := h.leaf b
  rw [if_neg hb] at hleaf
  have ht := treeAt_leaf (k := (leafIndex b).val) (a := a) (i := leafIndex b) (by rw [hleaf]; rfl) (by rw [hleaf]; rfl)
  rw [label_of_treeAt ht, hleaf]
  rfl

theorem GreedyTo.label_merge (h : GreedyTo f a m) (hm : MergesLeastTwo a k x y) :
    label a k = label a x + label a y := by
  obtain ⟨tx, htx⟩ := h.treeAt_of_used hm.first.2.1
  obtain ⟨ty, hty⟩ := h.treeAt_of_used hm.second.2.1
  rw [label_of_treeAt htx, label_of_treeAt hty, label_of_treeAt (hm.treeAt_record htx hty), leafSymbols,
    Multiset.coe_add]

/-- The records available before record `k` is made. -/
def availableSet (a : Arena) (k : Nat) : Finset (Fin 511) := Finset.univ.filter (Available a k)

theorem mem_availableSet : j ∈ availableSet a l ↔ Available a l j := by
  simp [availableSet]

theorem GreedyTo.availableSet_succ (h : GreedyTo f a m) (hk : 256 ≤ k.val) (hkm : k.val < m)
    (hm : MergesLeastTwo a k x y) :
    availableSet a (k.val + 1) = insert k (((availableSet a k).erase x).erase y) := by
  ext j
  simp only [mem_availableSet, Finset.mem_insert, Finset.mem_erase, h.available_succ_iff hk hkm hm]
  tauto

/-- Merging moves labels about and loses none. -/
theorem GreedyTo.sum_label_succ (h : GreedyTo f a m) (hk : 256 ≤ k.val) (hkm : k.val < m) :
    ∑ j ∈ availableSet a (k.val + 1), label a j = ∑ j ∈ availableSet a k, label a j := by
  obtain ⟨x, y, hm⟩ := h.inner k hk hkm
  have hx : x ∈ availableSet a k := mem_availableSet.mpr hm.first
  have hy : y ∈ (availableSet a k).erase x := Finset.mem_erase.mpr ⟨hm.ne.symm, mem_availableSet.mpr hm.second⟩
  have hnew : k ∉ ((availableSet a k).erase x).erase y := fun hmem =>
    (mem_availableSet.mp (Finset.mem_of_mem_erase (Finset.mem_of_mem_erase hmem))).1.false
  calc ∑ j ∈ availableSet a (k.val + 1), label a j
      = label a k + ∑ j ∈ ((availableSet a k).erase x).erase y, label a j := by
        rw [h.availableSet_succ hk hkm hm, Finset.sum_insert hnew]
    _ = label a x + (label a y + ∑ j ∈ ((availableSet a k).erase x).erase y, label a j) := by
        rw [h.label_merge hm, add_assoc]
    _ = ∑ j ∈ availableSet a k, label a j := by
        rw [Finset.add_sum_erase _ _ hy, Finset.add_sum_erase _ _ hx]

theorem GreedyTo.sum_label_leaves (h : GreedyTo f a m) :
    ∑ j ∈ availableSet a 256, label a j = (presentSymbols f : Multiset Byte) := by
  have hset : availableSet a 256 = ((presentSymbols f).map leafIndex).toFinset := by
    ext j
    simp only [mem_availableSet, h.available_leaves_iff, List.mem_toFinset, List.mem_map, mem_presentSymbols]
  have hlabel : (presentSymbols f).map (fun b => label a (leafIndex b)) = (presentSymbols f).map fun b => {b} :=
    List.map_congr_left fun b hb => h.label_leaf (mem_presentSymbols.mp hb)
  rw [hset, List.sum_toFinset _ ((presentSymbols_nodup f).map fun b c => leafIndex_inj), List.map_map]
  calc ((presentSymbols f).map (label a ∘ leafIndex)).sum
      = ((presentSymbols f).map fun b => ({b} : Multiset Byte)).sum := congrArg List.sum hlabel
    _ = (presentSymbols f : Multiset Byte) := Multiset.sum_map_singleton (presentSymbols f : Multiset Byte)

/-- Before every merge the labels of the available records together are the present symbols. -/
theorem GreedyTo.sum_label (h : GreedyTo f a m) (hl : 256 ≤ l) (hlm : l ≤ m) (hbound : l ≤ 511) :
    ∑ j ∈ availableSet a l, label a j = (presentSymbols f : Multiset Byte) := by
  induction l, hl using Nat.le_induction with
  | base => exact h.sum_label_leaves
  | succ l hl ih => exact (h.sum_label_succ (k := ⟨l, hbound⟩) hl hlm).trans (ih (by omega) (by omega))

/-- No record's label has more than the present symbols. -/
theorem MergeLoop.label_le (h : MergeLoop f a m set) (hu : (a[i]).used = true) :
    label a i ≤ (presentSymbols f : Multiset Byte) := by
  have hav : ∃ l, 256 ≤ l ∧ l ≤ m ∧ l ≤ 511 ∧ Available a l i := by
    obtain ⟨b, rfl, hb, -⟩ | ⟨hi, him, x, y, hm⟩ := h.used_cases hu
    · exact ⟨256, le_rfl, h.start, by decide, h.available_leaves_iff.mpr ⟨b, hb, rfl⟩⟩
    · exact ⟨i.val + 1, by omega, him, i.isLt, h.available_succ_self him hu⟩
  obtain ⟨l, hl, hlm, hbound, hav⟩ := hav
  rw [← h.sum_label hl hlm hbound, ← Finset.add_sum_erase _ _ (mem_availableSet.mpr hav)]
  exact Multiset.le_add_right _ _

/-- The last entry's label is every present symbol, each once (R236). -/
theorem MergeLoop.label_root (h : MergeLoop f a m [i]) : label a i = (presentSymbols f : Multiset Byte) := by
  have hlength := h.length
  have hpresent := presentSymbols_length f
  have hset : availableSet a m = {i} := by
    ext j
    rw [mem_availableSet, ← h.mem, List.mem_singleton, Finset.mem_singleton]
  rw [List.length_singleton] at hlength
  rw [← h.sum_label h.start le_rfl (by omega), hset, Finset.sum_singleton]

/-- ROOT is the loop's last entry. -/
theorem buildTree_root {r : Fin 511} (h : (buildTree f).2 = some r) : ∃ m, MergeLoop f (buildTree f).1 m [r] := by
  obtain ⟨m, set, hloop, hlen, hroot⟩ := buildTree_mergeLoop f
  obtain ⟨rest, rfl⟩ : ∃ rest, set = r :: rest := ⟨_, List.eq_cons_of_mem_head? (hroot.symm.trans h)⟩
  obtain rfl : rest = [] := List.eq_nil_of_length_eq_zero (by rw [List.length_cons] at hlen; omega)
  exact ⟨m, hloop⟩

theorem buildTree_root_exists (hb : symGet f b ≠ 0) : ∃ r, (buildTree f).2 = some r := by
  obtain ⟨m, set, -, hlen, hroot⟩ := buildTree_mergeLoop f
  have hpos := List.length_pos_of_mem (mem_presentSymbols.mpr hb)
  obtain ⟨r, rfl⟩ := List.length_eq_one_iff.mp (show set.length = 1 by omega)
  exact ⟨r, hroot⟩

/-! ### Weights (R237) -/

/-- The counts of the symbols of a label, added up. -/
def labelCount (f : SymTable Word) (s : Multiset Byte) : Nat := (s.map fun b => (symGet f b).toNat).sum

theorem labelCount_add (s t : Multiset Byte) : labelCount f (s + t) = labelCount f s + labelCount f t := by
  rw [labelCount, Multiset.map_add, Multiset.sum_add]
  rfl

theorem labelCount_mono {s t : Multiset Byte} (h : s ≤ t) : labelCount f s ≤ labelCount f t := by
  obtain ⟨u, rfl⟩ := Multiset.le_iff_exists_add.mp h
  rw [labelCount_add]
  exact Nat.le_add_right _ _

theorem labelCount_coe (bs : List Byte) : labelCount f bs = (bs.map fun b => (symGet f b).toNat).sum := rfl

/-- The absent symbols have no counts. -/
theorem labelCount_presentSymbols (f : SymTable Word) :
    labelCount f (presentSymbols f : Multiset Byte) = freqSum f := by
  rw [labelCount_coe, freqSum, ← map_symGet_allSymbols, List.map_map, presentSymbols]
  induction allSymbols with
  | nil => rfl
  | cons b bs ih =>
    rw [List.filter_cons]
    split
    · rw [List.map_cons, List.map_cons, List.sum_cons, List.sum_cons, ih]
      rfl
    · next hb =>
      have hzero : symGet f b = 0 := by simpa using hb
      rw [List.map_cons, List.sum_cons, ih, Function.comp_apply, hzero]
      exact (Nat.zero_add _).symm

theorem MergeLoop.labelCount_le (h : MergeLoop f a m set) {t : Tree} (ht : wholeTree a i = some t) :
    labelCount f (leafSymbols t : Multiset Byte) ≤ freqSum f := by
  rw [← labelCount_presentSymbols, ← label_of_wholeTree ht]
  exact labelCount_mono (h.label_le (wholeTree_cases ht).1)

/-- A record's weight is the exact sum of the counts below it, as long as all counts together fit in 32 bits. -/
theorem MergeLoop.weight_eq (h : MergeLoop f a m set) (hfits : freqSum f < 2 ^ 32) {t : Tree}
    (ht : wholeTree a i = some t) : (a[i]).weight.toNat = labelCount f (leafSymbols t : Multiset Byte) := by
  induction t generalizing i with
  | leaf b =>
    obtain ⟨hu, ⟨hl, e⟩ | ⟨-, l, r, tl, tr, -, -, -, -, e⟩⟩ := wholeTree_cases ht
    · cases e
      obtain ⟨b, -, -, hleaf⟩ | ⟨-, -, x, y, hm⟩ := h.used_cases hu
      · rw [hleaf, leafSymbols, labelCount_coe, List.map_singleton, List.sum_singleton]
        rfl
      · rw [hm.record] at hl
        cases hl
    · cases e
  | node tx ty ihx ihy =>
    have hle := h.labelCount_le ht
    obtain ⟨hu, ⟨-, e⟩ | ⟨hl, x, y, tx', ty', ex, ey, htx, hty, e⟩⟩ := wholeTree_cases ht
    · cases e
    · cases e
      obtain ⟨b, -, -, hleaf⟩ | ⟨-, -, x', y', hm⟩ := h.used_cases hu
      · rw [hleaf] at hl
        cases hl
      · rw [hm.record] at ex ey
        cases ex
        cases ey
        have hsum : labelCount f (leafSymbols (.node tx ty) : Multiset Byte) =
            (a[x]).weight.toNat + (a[y]).weight.toNat := by
          rw [ihx htx, ihy hty, leafSymbols, ← Multiset.coe_add, labelCount_add]
        rw [hm.record, hsum]
        exact (BitVec.toNat_add _ _).trans (Nat.mod_eq_of_lt (by omega))

end Sys2Proof.Machine

namespace Sys2Proof.Proofs

open Sys2Proof.Machine

/-- Settles O19: merging keeps the labels of the working set together equal to the present symbols, so ROOT's label is
all of them. -/
theorem buildMakesACompleteTreeOfThePresentSymbols : Obligations.BuildMakesACompleteTreeOfThePresentSymbols := by
  intro s x hstart hx
  obtain ⟨r, hr⟩ := buildTree_root_exists hx
  obtain ⟨m, hloop⟩ := buildTree_root hr
  obtain ⟨tree, htree⟩ := buildTree_treeReady s.freq r hr
  have hperm : (leafSymbols tree).Perm (presentSymbols s.freq) :=
    Multiset.coe_eq_coe.mp ((label_of_wholeTree htree).symm.trans hloop.label_root)
  refine ⟨_, r, tree, exec_build_atStart hstart, hr, htree, hperm.nodup_iff.mpr (presentSymbols_nodup _), fun b => ?_⟩
  rw [hperm.mem_iff, mem_presentSymbols]

/-- Settles O20: no label exceeds the present symbols, so by induction on the tree no sum of two weights wraps. -/
theorem builtWeightsAreSubtreeSums : Obligations.BuiltWeightsAreSubtreeSums := by
  intro s t hstart hcounts hexec
  obtain rfl := exec_build_next hstart hexec
  have hfits : freqSum s.freq < 2 ^ 32 := hcounts.total ▸ s.total.isLt
  constructor
  · intro i tree htree
    obtain ⟨m, set, hloop, -, -⟩ := buildTree_mergeLoop s.freq
    have hweight := hloop.weight_eq hfits htree
    exact ⟨hweight, hweight ▸ hcounts.total ▸ hloop.labelCount_le htree⟩
  · intro r hr
    obtain ⟨m, hloop⟩ := buildTree_root hr
    obtain ⟨tree, htree⟩ := buildTree_treeReady s.freq r hr
    have hweight := hloop.weight_eq hfits htree
    rw [← label_of_wholeTree htree, hloop.label_root, labelCount_presentSymbols, hcounts.total] at hweight
    exact BitVec.eq_of_toNat_eq hweight

end Sys2Proof.Proofs
end

section
/-! PROOFS. 42_code_table.md: the entries GENCODE writes (R265 to R268), and that no code begins another (R269). -/

namespace Sys2Proof.Machine

variable {s t : State} {p : Bits} {ps : List (Byte × Bits)} {b : Byte}

/-! ### The entry of a path (R265, 10_state.md R40) -/

theorem entryOfPath_len (h : p.length ≤ Config.codeMax) : (entryOfPath p).len.toNat = p.length :=
  Nat.mod_eq_of_lt (h.trans_lt (by decide))

theorem entryOfPath_bits (h : p.length ≤ Config.codeMax) : (entryOfPath p).bits.toNat = val p :=
  Nat.mod_eq_of_lt ((val_lt p).trans_le (Nat.pow_le_pow_right (by decide) h))

/-- A path that fits is read back from its entry. -/
theorem entryOfPath_toBits (h : p.length ≤ Config.codeMax) : (entryOfPath p).toBits = p := by
  rw [CodeEntry.toBits, entryOfPath_len h, entryOfPath_bits h, bin_val]

/-! ### The table filled from a list of paths (R265) -/

theorem fillCodes_append_one (ps : List (Byte × Bits)) (x : Byte × Bits) :
    fillCodes (ps ++ [x]) = symPut (fillCodes ps) x.1 (entryOfPath x.2) := by
  simp only [fillCodes, List.foldl_append, List.foldl_cons, List.foldl_nil]

/-- A symbol that is not listed has the blank entry; a listed one has the entry of a path it is listed with. -/
theorem fillCodes_cases (ps : List (Byte × Bits)) (b : Byte) :
    (b ∉ ps.map Prod.fst ∧ symGet (fillCodes ps) b = CodeEntry.blank) ∨
    ∃ p, (b, p) ∈ ps ∧ symGet (fillCodes ps) b = entryOfPath p := by
  induction ps using List.reverseRecOn with
  | nil => exact .inl ⟨List.not_mem_nil, symGet_replicate b _⟩
  | append_singleton ps x ih =>
    rw [fillCodes_append_one, symGet_symPut]
    by_cases hb : b = x.1
    · exact .inr ⟨x.2, by simp [hb], if_pos hb⟩
    · rw [if_neg hb]
      obtain ⟨hnot, hblank⟩ | ⟨p, hp, hentry⟩ := ih
      · exact .inl ⟨by simpa [hb] using hnot, hblank⟩
      · exact .inr ⟨p, List.mem_append_left _ hp, hentry⟩

theorem fillCodes_of_notMem (h : b ∉ ps.map Prod.fst) : symGet (fillCodes ps) b = CodeEntry.blank := by
  obtain ⟨-, hblank⟩ | ⟨p, hp, -⟩ := fillCodes_cases ps b
  · exact hblank
  · exact absurd (List.mem_map_of_mem hp) h

/-- When no symbol is listed twice, each has the entry of its own path. -/
theorem fillCodes_of_mem (hnodup : (ps.map Prod.fst).Nodup) (h : (b, p) ∈ ps) :
    symGet (fillCodes ps) b = entryOfPath p := by
  obtain ⟨hnot, -⟩ | ⟨q, hq, hentry⟩ := fillCodes_cases ps b
  · exact absurd (List.mem_map_of_mem h) hnot
  · cases List.inj_on_of_nodup_map hnodup h hq rfl
    exact hentry

theorem fillCodes_of_valid (h : (symGet (fillCodes ps) b).valid = true) :
    ∃ p, (b, p) ∈ ps ∧ symGet (fillCodes ps) b = entryOfPath p := by
  obtain ⟨-, hblank⟩ | hlisted := fillCodes_cases ps b
  · rw [hblank] at h
    cases h
  · exact hlisted

/-! ### Paths of a tree (R262, R269) -/

/-- The two children's paths begin with different bits, so a path that begins another is that path, of the same leaf. -/
theorem leafPaths_prefixFree {tree : Tree} {x y : Byte × Bits} (hx : x ∈ leafPaths tree) (hy : y ∈ leafPaths tree)
    (h : x.2 <+: y.2) : x = y := by
  induction tree generalizing x y with
  | leaf b => exact (List.mem_singleton.mp hx).trans (List.mem_singleton.mp hy).symm
  | node l r ihl ihr =>
    simp only [leafPaths, List.mem_append, List.mem_map] at hx hy
    obtain ⟨u, hu, rfl⟩ | ⟨u, hu, rfl⟩ := hx <;> obtain ⟨v, hv, rfl⟩ | ⟨v, hv, rfl⟩ := hy <;>
      obtain ⟨hbit, hrest⟩ := List.cons_prefix_cons.mp h
    · rw [ihl hu hv hrest]
    · cases hbit
    · cases hbit
    · rw [ihr hu hv hrest]

/-! ### GENCODE's body (R265 to R268) -/

/-- GENCODE's body runs in the step after acceptance. -/
theorem exec_gencode_atStart (h : AtStart s) : exec .gencode s = gencodeBody s := runCommand_atStart h

theorem gencodeBody_empty (h : s.root = none) :
    gencodeBody s = .next (finish { s with code := blankCodes, codesValid := true }) := by
  rw [gencodeBody, h]

theorem gencodeBody_tree {r : Fin 511} {tree : Tree} (hr : s.root = some r) (ht : wholeTree s.node r = some tree) :
    gencodeBody s = .next (gencodePaths (leafPaths tree) s) := by
  simp only [gencodeBody, hr, ht]

theorem gencodePaths_fits (h : ∀ x ∈ ps, x.2.length ≤ Config.codeMax) :
    gencodePaths ps s = finish { s with code := fillCodes ps, codesValid := true } :=
  if_neg (by simpa using h)

theorem gencodePaths_deep (h : ∃ x ∈ ps, Config.codeMax < x.2.length) :
    gencodePaths ps s = raiseError .codeTooLong { s with codesValid := false } :=
  if_pos (by simpa using h)

/-- A GENCODE that leaves CODES_VALID = 1 met the empty tree or a tree all of whose paths fit. -/
theorem gencodeBody_success (h : gencodeBody s = .next t) (hvalid : t.codesValid = true) :
    t.code = blankCodes ∨
    ∃ tree, (∀ x ∈ leafPaths tree, x.2.length ≤ Config.codeMax) ∧ t.code = fillCodes (leafPaths tree) := by
  obtain ⟨-, rfl⟩ | ⟨r, tree, -, -, rfl⟩ := gencodeBody_next_cases h
  · exact .inl rfl
  · by_cases hfits : ∀ x ∈ leafPaths tree, x.2.length ≤ Config.codeMax
    · rw [gencodePaths_fits hfits]
      exact .inr ⟨tree, hfits, rfl⟩
    · rw [gencodePaths_deep (by simpa using hfits)] at hvalid
      cases hvalid

/-- In the table of a tree whose paths fit, no code begins the code of another symbol (R269). -/
theorem fillCodes_prefixFree {tree : Tree} {a b : Byte} (hfits : ∀ x ∈ leafPaths tree, x.2.length ≤ Config.codeMax)
    (ha : (symGet (fillCodes (leafPaths tree)) a).valid = true)
    (hb : (symGet (fillCodes (leafPaths tree)) b).valid = true)
    (h : (symGet (fillCodes (leafPaths tree)) a).toBits <+: (symGet (fillCodes (leafPaths tree)) b).toBits) :
    a = b := by
  obtain ⟨p, hp, hpentry⟩ := fillCodes_of_valid ha
  obtain ⟨q, hq, hqentry⟩ := fillCodes_of_valid hb
  rw [hpentry, hqentry, entryOfPath_toBits (hfits _ hp), entryOfPath_toBits (hfits _ hq)] at h
  exact congrArg Prod.fst (leafPaths_prefixFree hp hq h)

end Sys2Proof.Machine

namespace Sys2Proof.Proofs

open Sys2Proof.Machine

/-- Settles O21: with distinct leaf symbols no entry is written twice, and a path of at most 64 bits is read back from
its entry. -/
theorem gencodeWritesEveryPath : Obligations.GencodeWritesEveryPath := by
  intro s r tree hstart hr htree hnodup hfits
  refine ⟨fillCodes (leafPaths tree), ?_, ?_, ?_⟩
  · rw [exec_gencode_atStart hstart, gencodeBody_tree hr htree, gencodePaths_fits hfits]
    rfl
  · intro x hx
    have hentry : symGet (fillCodes (leafPaths tree)) x.1 = entryOfPath x.2 :=
      fillCodes_of_mem ((leafPaths_symbols tree).symm ▸ hnodup) hx
    rw [hentry]
    exact ⟨rfl, entryOfPath_len (hfits x hx), entryOfPath_toBits (hfits x hx),
      (entryOfPath_bits (hfits x hx)).trans_lt (val_lt x.2)⟩
  · intro b hb
    exact fillCodes_of_notMem ((leafPaths_symbols tree).symm ▸ hb)

/-- Settles O22: the two ends of GENCODE's body that write no code. -/
theorem gencodeFailsOnADeepLeafAndAcceptsTheEmptyTree :
    Obligations.GencodeFailsOnADeepLeafAndAcceptsTheEmptyTree := by
  intro s hstart
  rw [exec_gencode_atStart hstart]
  constructor
  · intro r tree hr htree hdeep
    rw [gencodeBody_tree hr htree, gencodePaths_deep hdeep]
    rfl
  · intro hr
    exact ⟨blankCodes, fun b => symGet_replicate b _, gencodeBody_empty hr⟩

/-- Settles O23: every valid code is the path of a leaf with its symbol, and no leaf's path begins another leaf's. -/
theorem generatedCodesArePrefixFree : Obligations.GeneratedCodesArePrefixFree := by
  intro s t hrun _ hexec hvalid a b hne ha hb hprefix
  have hbody : gencodeBody s = .next t := (runCommand_singleStep_cases hrun.1 hexec).2
  obtain hcode | ⟨tree, hfits, hcode⟩ := gencodeBody_success hbody hvalid
  · rw [hcode, blankCodes, symGet_replicate] at ha
    cases ha
  · rw [hcode] at ha hb hprefix
    exact hne (fillCodes_prefixFree hfits ha hb hprefix)

end Sys2Proof.Proofs
end

section
/-! PROOFS. 10_state.md: CODE's entries stay canonical (R40), and a running command stays at its own points (R52). -/

namespace Sys2Proof.Machine

variable {s t : State} {c : Instr} {p : Bits} {ps : List (Byte × Bits)} {k : Token}

/-! ### Canonical code entries (10_state.md R40) -/

theorem State.CodesInv.congr (hs : s.CodesInv) (h : t.code = s.code) : t.CodesInv :=
  fun b => h ▸ hs b

theorem CodeEntry.blank_canonical : CodeEntry.blank.Canonical := ⟨by decide, by decide, fun _ => rfl⟩

theorem codesInv_of_blank (h : s.code = blankCodes) : s.CodesInv := by
  intro b
  rw [h, blankCodes, symGet_replicate]
  exact CodeEntry.blank_canonical

theorem entryOfPath_canonical (h : p.length ≤ Config.codeMax) : (entryOfPath p).Canonical := by
  have hlen := entryOfPath_len h
  refine ⟨hlen ▸ h, ?_, nofun⟩
  rw [entryOfPath_bits h, hlen]
  exact val_lt p

theorem codesInv_of_fillCodes (h : s.code = fillCodes ps) (hfits : ∀ x ∈ ps, x.2.length ≤ Config.codeMax) :
    s.CodesInv := by
  intro b
  rw [h]
  obtain ⟨-, hblank⟩ | ⟨p, hp, hentry⟩ := fillCodes_cases ps b
  · rw [hblank]
    exact CodeEntry.blank_canonical
  · rw [hentry]
    exact entryOfPath_canonical (hfits _ hp)

/-- GENCODE fills CODE only when every path fits in an entry (42_code_table.md R265). -/
theorem gencodeBody_codesInv (hs : s.CodesInv) (h : gencodeBody s = .next t) : t.CodesInv := by
  obtain ⟨-, rfl⟩ | ⟨r, tree, -, -, rfl⟩ := gencodeBody_next_cases h
  · exact codesInv_of_blank rfl
  · by_cases hfits : ∀ x ∈ leafPaths tree, x.2.length ≤ Config.codeMax
    · exact codesInv_of_fillCodes (congrArg State.code (gencodePaths_fits hfits)) hfits
    · rw [gencodePaths_deep (by simpa using hfits)]
      exact hs.congr rfl

theorem exec_codesInv (hs : s.CodesInv) (hb : s.busy = true) (h : exec c s = .next t) : t.CodesInv := by
  by_cases hc : c = .gencode
  · subst hc
    exact gencodeBody_codesInv hs (runCommand_singleStep_cases hb h).2
  · exact hs.congr (exec_keeps_code h hc)

/-! ### A running command's program point (R52)

DECODE needs no tree here: whatever its registers hold, it goes to points of its own. -/

/-- The engine stopped, or stands at a point of `c`. -/
def StopsOrOwns (c : Instr) (s : State) : Prop := s.busy = false ∨ ownsPoint c s.point = true

theorem startStreaming_stopsOrOwns (s : State) : StopsOrOwns .decode (startStreaming s) := by
  unfold startStreaming
  dsimp only
  split
  · exact .inr rfl
  · split <;> exact .inr rfl

theorem decCountToken_stopsOrOwns (i : Fin 4) (n : Word) (tok : Token) (s : State) :
    StopsOrOwns .decode (decCountToken i n tok s) := by
  cases tok with
  | eos => exact .inl rfl
  | data b =>
    unfold decCountToken countDone
    dsimp only
    split
    · split
      · exact startStreaming_stopsOrOwns _
      · exact .inr rfl
    · exact .inr rfl

theorem headerBits_stopsOrOwns (n : Nat) (pos : TreePos) (s : State) : StopsOrOwns .decode (headerBits n pos s) := by
  induction n generalizing pos s with
  | zero => exact .inr rfl
  | succ k ih =>
    unfold headerBits
    split
    · exact ih _ _
    · exact startStreaming_stopsOrOwns _
    · exact .inl rfl

theorem decTreeToken_stopsOrOwns (pos : TreePos) (tok : Token) (s : State) :
    StopsOrOwns .decode (decTreeToken pos tok s) := by
  cases tok with
  | eos => exact .inl rfl
  | data b => exact headerBits_stopsOrOwns 8 pos _

theorem degenPushed_stopsOrOwns (s : State) : StopsOrOwns .decode (degenPushed s) := by
  unfold degenPushed
  dsimp only
  split <;> exact .inr rfl

theorem walkBits_stopsOrOwns {n : Nat} (h : walkBits n s = .next t) : StopsOrOwns .decode t := by
  obtain ⟨_, _, _, rfl | rfl, rfl⟩ := walkBits_frame n h <;> exact .inr rfl

theorem decTokToken_stopsOrOwns (hp : s.point = .decTok) (h : decTokToken k s = .next t) : StopsOrOwns .decode t := by
  cases k with
  | eos => cases h; exact .inl rfl
  | data b =>
    unfold decTokToken at h
    dsimp only at h
    split at h
    · cases h
      exact .inr (congrArg (ownsPoint .decode) hp)
    · exact walkBits_stopsOrOwns h

theorem decodeBody_stopsOrOwns (h : decodeBody s = .next t) : t = s ∨ StopsOrOwns .decode t := by
  obtain rfl | ⟨-, rfl⟩ | ⟨k, n, tok, rest, -, -, rfl⟩ | ⟨pos, tok, rest, -, -, rfl⟩ | ⟨-, r, -, -, rfl⟩ |
    ⟨hp, tok, rest, -, htok⟩ | ⟨-, c, -, -, hwalk⟩ := decodeBody_cases h
  · exact .inl rfl
  · exact .inr (.inr rfl)
  · exact .inr (decCountToken_stopsOrOwns k n tok _)
  · exact .inr (decTreeToken_stopsOrOwns pos tok _)
  · exact .inr (degenPushed_stopsOrOwns _)
  · exact .inr (decTokToken_stopsOrOwns (s := { s with inFifo := rest }) hp htok)
  · exact .inr (walkBits_stopsOrOwns hwalk)

/-- A command that does a micro-step waits, ends, or stands at a point of its own. -/
theorem exec_stopsOrOwns (hb : s.busy = true) (h : exec c s = .next t) : t = s ∨ StopsOrOwns c t := by
  by_cases hc : c = .decode
  · subst hc
    exact decodeBody_stopsOrOwns ((runCommand_busy hb).symm.trans h)
  · exact (exec_goesOn hb hc h).imp_right (Or.imp_right And.left)

end Sys2Proof.Machine
end

section
/-! PROOFS. 43_bit_packer.md: ENCODE micro-step by micro-step (R305 to R313), and the bounds of its accumulator
(R307). -/

namespace Sys2Proof.Machine

variable {s t : State} {c : Instr} {p : Bits} {b : Byte} {k : Token} {rest : List Token}

/-! ### ENCODE's micro-steps (R305) -/

@[simp] theorem CodeEntry.toBits_length (e : CodeEntry) : e.toBits.length = e.len.toNat := bin_length ..

theorem encNext_eq (s : State) : encNext s = { s with point := if 8 ≤ s.acc.length then .encPush else .encPop } := by
  unfold encNext
  split <;> rfl

theorem encToken_eos_empty (h : s.acc = []) : encToken .eos s = finish s := if_pos h

theorem encToken_eos_bits (h : s.acc ≠ []) : encToken .eos s = goto .encFlush s := if_neg h

theorem encToken_noCode (h : (symGet s.code b).valid = false) :
    encToken (.data b) s = raiseError .symNotInTree { s with acc := [] } :=
  if_neg (Bool.eq_false_iff.mp h)

theorem encToken_code (h : (symGet s.code b).valid = true) :
    encToken (.data b) s = encNext { s with acc := s.acc ++ (symGet s.code b).toBits, emitted := s.emitted + 1 } :=
  if_pos h

theorem encodeBody_accepted (h : s.point = .accepted) : encodeBody s = .next (goto .encPop s) := by
  simp [encodeBody, h]

theorem encodeBody_waitIn (hp : s.point = .encPop) (h : s.inFifo = []) : encodeBody s = .next s := by
  simp [encodeBody, hp, popIn_nil h]

theorem encodeBody_pop (hp : s.point = .encPop) (h : s.inFifo = k :: rest) :
    encodeBody s = .next (encToken k { s with inFifo := rest }) := by
  simp [encodeBody, hp, popIn_cons h]

theorem encodeBody_waitOut (hp : s.point = .encPush ∨ s.point = .encFlush)
    (h : s.outDepth.toNat ≤ s.outFifo.length) : encodeBody s = .next s := by
  obtain hp | hp := hp <;> simp [encodeBody, hp, pushOut_full h]

theorem encodeBody_push (hp : s.point = .encPush) (h : s.outFifo.length < s.outDepth.toNat) :
    encodeBody s = .next (encNext { s with
      outFifo := s.outFifo ++ [byteOf (s.acc.take 8)], outbytes := s.outbytes + 1, acc := s.acc.drop 8 }) := by
  simp [encodeBody, hp, pushOut_room h]

theorem encodeBody_flush (hp : s.point = .encFlush) (h : s.outFifo.length < s.outDepth.toNat) :
    encodeBody s = .next (finish { s with
      outFifo := s.outFifo ++ [byteOf (padByte s.acc)], outbytes := s.outbytes + 1, acc := [] }) := by
  simp [encodeBody, hp, pushOut_room h]

/-- The last byte is padded to 8 bits (R308). -/
theorem padByte_of_lt_eight (hpos : 1 ≤ p.length) (hlt : p.length ≤ 7) :
    padByte p = p ++ List.replicate (8 - p.length) false := by
  rw [padByte, Nat.mod_eq_of_lt (Nat.lt_succ_of_le hlt), Nat.mod_eq_of_lt (by omega)]

/-! ### The accumulator's bounds (R307) -/

/-- The bounds of ACC at ENCODE's wait points; no other point has any. -/
def PackerPhase (p : Point) (acc : Bits) : Prop :=
  match p with
  | .encPop => acc.length ≤ 7
  | .encPush => 8 ≤ acc.length ∧ acc.length ≤ 71
  | .encFlush => 1 ≤ acc.length ∧ acc.length ≤ 7
  | .accepted | .countPop | .hdrPush _ _ | .decCount _ _ | .decTree _ | .decDegen | .decTok | .decPush => True

theorem packerInv_iff : s.PackerInv ↔
    s.CodesInv ∧ (Runs .encode s → s.point = .accepted → s.acc = []) ∧
      (s.busy = true → PackerPhase s.point s.acc) := by
  constructor
  · rintro ⟨hcodes, hstart, hpop, hpush, hflush⟩
    refine ⟨hcodes, hstart, fun hb => ?_⟩
    cases hp : s.point
    case encPop => exact hpop hb hp
    case encPush => exact hpush hb hp
    case encFlush => exact hflush hb hp
    all_goals trivial
  · rintro ⟨hcodes, hstart, hphase⟩
    have hat {p : Point} (hb : s.busy = true) (hp : s.point = p) : PackerPhase p s.acc := hp ▸ hphase hb
    exact ⟨hcodes, hstart, hat, hat, hat⟩

theorem packerInv_of_stopped (hb : s.busy = false) (hcodes : s.CodesInv) : s.PackerInv :=
  packerInv_iff.mpr ⟨hcodes, fun hr => absurd (hb.symm.trans hr.1) Bool.false_ne_true,
    fun h => absurd (hb.symm.trans h) Bool.false_ne_true⟩

/-- Only ENCODE stands at a point where ACC is bounded. -/
theorem packerPhase_of_ownsPoint {q : Point} (hc : c ≠ .encode) (h : ownsPoint c q = true) (acc : Bits) :
    PackerPhase q acc := by
  cases q
  case encPop | encPush | encFlush => exact absurd (of_decide_eq_true h) hc
  all_goals trivial

theorem encNext_packerPhase (h : s.acc.length ≤ 71) : PackerPhase (encNext s).point (encNext s).acc := by
  unfold encNext
  split
  · next hpush => exact ⟨hpush, h⟩
  · next hpop => exact Nat.lt_succ_iff.mp (Nat.lt_of_not_le hpop)

/-- At most 7 bits and a code of at most 64 are at most 71. -/
theorem encToken_packerPhase (k : Token) (hs : s.CodesInv) (hacc : s.acc.length ≤ 7)
    (hb : (encToken k s).busy = true) : PackerPhase (encToken k s).point (encToken k s).acc := by
  cases k with
  | eos =>
    by_cases hempty : s.acc = []
    · rw [encToken_eos_empty hempty] at hb
      cases hb
    · rw [encToken_eos_bits hempty]
      exact ⟨List.length_pos_iff.mpr hempty, hacc⟩
  | data b =>
    cases hvalid : (symGet s.code b).valid with
    | false =>
      rw [encToken_noCode hvalid] at hb
      cases hb
    | true =>
      have hlen : (symGet s.code b).len.toNat ≤ 64 := (hs b).len
      rw [encToken_code hvalid]
      refine encNext_packerPhase ?_
      rw [List.length_append, CodeEntry.toBits_length]
      omega

theorem encodeBody_packerPhase (hs : s.PackerInv) (hrun : Runs .encode s) (h : encodeBody s = .next t)
    (hb : t.busy = true) : PackerPhase t.point t.acc := by
  obtain ⟨hcodes, hstart, hphase⟩ := packerInv_iff.mp hs
  have hat {p : Point} (hp : s.point = p) : PackerPhase p s.acc := hp ▸ hphase hrun.1
  obtain rfl | ⟨hp, rfl⟩ | ⟨hp, k, rest, -, rfl⟩ | ⟨hp, -, rfl⟩ | ⟨-, -, rfl⟩ := encodeBody_cases h
  · exact hphase hb
  · have hempty : s.acc.length = 0 := congrArg List.length (hstart hrun hp)
    exact hempty.trans_le (Nat.zero_le 7)
  · exact encToken_packerPhase k (s := { s with inFifo := rest }) hcodes (hat hp) hb
  · refine encNext_packerPhase ?_
    have hle : s.acc.length ≤ 71 := (hat hp).2
    simp only [List.length_drop]
    omega
  · cases hb

theorem exec_packerInv (hs : s.PackerInv) (hrun : Runs c s) (h : exec c s = .next t) : t.PackerInv := by
  have hcodes := exec_codesInv hs.codes hrun.1 h
  by_cases hc : c = .encode
  · subst hc
    have hbody : encodeBody s = .next t := (runCommand_busy hrun.1).symm.trans h
    refine packerInv_iff.mpr ⟨hcodes, fun ht hp => ?_, encodeBody_packerPhase hs hrun hbody⟩
    obtain rfl | hstop | ⟨-, hpoint⟩ := encodeBody_goesOn hbody
    · exact hs.start ht hp
    · exact absurd (hstop.symm.trans ht.1) Bool.false_ne_true
    · exact absurd hp hpoint
  · refine packerInv_iff.mpr ⟨hcodes, fun ht => absurd (hrun.of_exec h ht).symm hc, fun hb => ?_⟩
    obtain rfl | hstop | hown := exec_stopsOrOwns hrun.1 h
    · obtain ⟨-, -, hphase⟩ := packerInv_iff.mp hs
      exact hphase hb
    · exact absurd (hstop.symm.trans hb) Bool.false_ne_true
    · exact packerPhase_of_ownsPoint hc hown t.acc

/-- ENCODE is accepted with ACC emptied (R383). -/
theorem Presented.packerInv (hs : s.CodesInv) (h : Presented s t) : t.PackerInv := by
  have hcode : t.code = s.code := (congrArg State.code h.frame :)
  obtain ⟨e, rfl⟩ | ⟨c, hc, -, rfl⟩ := h
  · exact packerInv_of_stopped rfl hs
  · refine packerInv_iff.mpr ⟨hs.congr hcode, fun ht _ => ?_, fun _ => ?_⟩
    · obtain rfl := Runs.of_accept hc ht
      rfl
    · cases c <;> trivial

end Sys2Proof.Machine

namespace Sys2Proof.Proofs

open Sys2Proof.Machine

/-- Settles O29, by the kind of step: only ENCODE stands at a point that bounds ACC, and a code has at most 64 bits. -/
theorem stepKeepsThePackerAccumulatorBounds : Obligations.StepKeepsThePackerAccumulatorBounds := by
  intro s t hs h
  refine step_induction ?host ?reset ?idle ?micro hs h
  case host =>
    rintro s t hs ⟨hf, -, -⟩
    rw [hf]
    exact ⟨hs.codes, hs.start, hs.pop, hs.push, hs.flush⟩
  case reset => exact fun s _ => packerInv_of_stopped rfl (codesInv_of_blank rfl)
  case idle => exact fun s t hs _ hp => hp.packerInv hs.codes
  case micro => exact fun c s t hs hrun hexec => exec_packerInv hs hrun hexec

/-- Settles O28: 8 bits are the byte they are packed into, and what is left tells where ENCODE goes. -/
theorem encodePushesWholeBytesFirstBitHighest : Obligations.EncodePushesWholeBytesFirstBitHighest := by
  intro s hb
  have hexec : exec .encode s = encodeBody s := runCommand_busy hb
  rw [hexec]
  refine ⟨encodeBody_waitOut, fun hp hlen hroom => ?push, fun hp hpos hlt hroom => ?flush⟩
  case push =>
    have hleft : 8 ≤ (s.acc.drop 8).length ↔ 16 ≤ s.acc.length := by
      rw [List.length_drop]
      omega
    refine ⟨byteOf (s.acc.take 8), bin_byteOf (List.length_take_of_le hlen), ?_⟩
    simp only [encodeBody_push hp hroom, encNext_eq, hleft]
  case flush =>
    refine ⟨byteOf (padByte s.acc), ?_, encodeBody_flush hp hroom⟩
    rw [padByte_of_lt_eight hpos hlt]
    refine bin_byteOf ?_
    rw [List.length_append, List.length_replicate]
    omega

/-- Settles O27: by the program point, the input FIFO and the token at its head. -/
theorem encodeTakesOneToken : Obligations.EncodeTakesOneToken := by
  intro s hb
  have hexec : exec .encode s = encodeBody s := runCommand_busy hb
  rw [hexec]
  refine ⟨encodeBody_accepted, encodeBody_waitIn, fun rest hp hfifo hacc => ?eosEmpty,
    fun rest hp hfifo hacc => ?eosBits, fun b rest hp hfifo hvalid => ?noCode, fun b rest hp hfifo hvalid => ?code⟩
  case eosEmpty => exact (encodeBody_pop hp hfifo).trans (congrArg _ (encToken_eos_empty hacc))
  case eosBits => exact (encodeBody_pop hp hfifo).trans (congrArg _ (encToken_eos_bits hacc))
  case noCode => exact (encodeBody_pop hp hfifo).trans (congrArg _ (encToken_noCode hvalid))
  case code =>
    have hcode := encToken_code (s := { s with inFifo := rest }) hvalid
    rw [encodeBody_pop hp hfifo, hcode]
    simp only [encNext_eq, List.length_append, CodeEntry.toBits_length, ← Nat.not_lt, ite_not]

end Sys2Proof.Proofs
end

section
/-! PROOFS. 43_bit_packer.md: EMITHDR's bytes (R295, R297) and how it pushes them (R300). -/

namespace Sys2Proof.Machine

variable {s : State} {p : Bits} {bytes rest : List Byte} {b : Byte} {r : Fin 511} {tree : Tree}

/-! ### Bytes and their bits (20_memory.md R109) -/

@[simp] theorem bitsOf_cons (b : Byte) (bytes : List Byte) :
    Claims.bitsOf (b :: bytes) = bin 8 b.toNat ++ Claims.bitsOf bytes := rfl

@[simp] theorem bitsOf_length (bytes : List Byte) : (Claims.bitsOf bytes).length = 8 * bytes.length := by
  induction bytes with
  | nil => rfl
  | cons b rest ih =>
    rw [bitsOf_cons, List.length_append, bin_length, ih, List.length_cons]
    omega

/-- Cutting whole bytes off a bit string loses nothing. -/
theorem bitsOf_toBytes (h : p.length % 8 = 0) : Claims.bitsOf (toBytes p) = p := by
  induction p using toBytes.induct with
  | case1 b0 b1 b2 b3 b4 b5 b6 b7 rest ih =>
    have hrest : rest.length % 8 = 0 := by
      simp only [List.length_cons] at h
      omega
    rw [toBytes, bitsOf_cons, bin_byteOf rfl, ih hrest]
    rfl
  | case2 p hshort =>
    match p, h with
    | [], _ => rfl
    | b0 :: b1 :: b2 :: b3 :: b4 :: b5 :: b6 :: b7 :: rest, _ => exact (hshort b0 b1 b2 b3 b4 b5 b6 b7 rest rfl).elim

/-! ### The header's bits (R295, 30_encoding.md R160 to R162) -/

theorem bitsOf_headerBytes_none (n : Word) : Claims.bitsOf (headerBytes n none) = bin 32 n.toNat :=
  bitsOf_toBytes (by rw [bin_length])

theorem bitsOf_headerBytes_some (n : Word) (tree : Tree) :
    Claims.bitsOf (headerBytes n (some tree)) = bin 32 n.toNat ++ padByte (ser tree) := by
  refine bitsOf_toBytes ?_
  have hpad := padByte_length (ser tree)
  rw [List.length_append, bin_length]
  omega

/-- `|padByte(s)|` is `|s|` rounded up to whole bytes (R162). -/
theorem padByte_length_eq (p : Bits) : (padByte p).length = 8 * ((p.length + 7) / 8) := by
  rw [padByte, List.length_append, List.length_replicate]
  omega

/-! ### EMITHDR's micro-steps (R295, R300) -/

/-- EMITHDR with bits to push goes to the push of their first byte. -/
theorem hdrNext_of_bits (h : Claims.bitsOf bytes = p) (hne : p ≠ []) (s : State) :
    ∃ b rest, hdrNext bytes s = { s with point := .hdrPush b rest } ∧ Claims.bitsOf (b :: rest) = p := by
  cases bytes with
  | nil => exact absurd h.symm hne
  | cons b rest => exact ⟨b, rest, rfl, h⟩

theorem emithdrBody_empty (hp : s.point = .accepted) (hr : s.root = none) :
    emithdrBody s = .next (hdrNext (headerBytes s.total none) s) := by
  simp [emithdrBody, hp, hr]

theorem emithdrBody_tree (hp : s.point = .accepted) (hr : s.root = some r) (ht : wholeTree s.node r = some tree) :
    emithdrBody s = .next (hdrNext (headerBytes s.total (some tree)) s) := by
  simp [emithdrBody, hp, hr, ht]

theorem emithdrBody_wait (hp : s.point = .hdrPush b rest) (h : s.outDepth.toNat ≤ s.outFifo.length) :
    emithdrBody s = .next s := by
  simp [emithdrBody, hp, pushOut_full h]

theorem emithdrBody_push (hp : s.point = .hdrPush b rest) (h : s.outFifo.length < s.outDepth.toNat) :
    emithdrBody s = .next (hdrNext rest { s with outFifo := s.outFifo ++ [b], outbytes := s.outbytes + 1 }) := by
  simp [emithdrBody, hp, pushOut_room h]

end Sys2Proof.Machine

namespace Sys2Proof.Proofs

open Sys2Proof.Machine

/-- Settles O24: the header's bits are whole bytes, so cutting them into bytes keeps them all. -/
theorem emithdrFormsCountAndTreeBits : Obligations.EmithdrFormsCountAndTreeBits := by
  rintro s ⟨hb, hp⟩
  have hexec : exec .emithdr s = emithdrBody s := runCommand_busy hb
  rw [hexec]
  refine ⟨fun hr => ?empty, fun r tree hr ht => ?tree⟩
  case empty =>
    obtain ⟨b, rest, hnext, hbits⟩ := hdrNext_of_bits (bitsOf_headerBytes_none s.total) nofun s
    exact ⟨b, rest, (emithdrBody_empty hp hr).trans (congrArg _ hnext), hbits⟩
  case tree =>
    obtain ⟨b, rest, hnext, hbits⟩ := hdrNext_of_bits (bitsOf_headerBytes_some s.total tree) nofun s
    refine ⟨b, rest, (emithdrBody_tree hp hr ht).trans (congrArg _ hnext), ?_⟩
    rw [hbits, padByte, List.append_assoc]

/-- Settles O26: the bits of O24's bytes, 8 for each, are the 32 of the count and the tree's padded `10 L - 1`. -/
theorem headerLengthFollowsTheLeafCount : Obligations.HeaderLengthFollowsTheLeafCount := by
  intro s t hstart hexec
  obtain ⟨hempty, htree⟩ := emithdrFormsCountAndTreeBits s hstart
  refine ⟨fun hr => ?empty, fun r tree hr ht => ?tree⟩
  case empty =>
    obtain ⟨b, rest, hnext, hbits⟩ := hempty hr
    cases hexec.symm.trans hnext
    have hlen := congrArg List.length hbits
    rw [bitsOf_length, bin_length, List.length_cons] at hlen
    exact ⟨b, rest, rfl, by omega⟩
  case tree =>
    obtain ⟨b, rest, hnext, hbits⟩ := htree r tree hr ht
    cases hexec.symm.trans hnext
    have hlen := congrArg List.length hbits
    have hser := ser_length tree
    rw [bitsOf_length, List.append_assoc, List.length_append, bin_length, ← padByte, padByte_length_eq,
      List.length_cons] at hlen
    exact ⟨b, rest, rfl, by omega⟩

/-- Settles O25: by the room in the output FIFO and the bytes left. -/
theorem emithdrPushesOneByte : Obligations.EmithdrPushesOneByte := by
  intro s b rest hb hp
  have hexec : exec .emithdr s = emithdrBody s := runCommand_busy hb
  rw [hexec]
  refine ⟨emithdrBody_wait hp, fun hroom => ⟨?more, ?last⟩⟩
  case more =>
    rintro c more rfl
    exact emithdrBody_push hp hroom
  case last =>
    rintro rfl
    exact emithdrBody_push hp hroom

end Sys2Proof.Proofs
end

section
/-! PROOFS. 43_bit_packer.md R296: the count EMITHDR writes is the weight of the tree that BUILD made (10_state.md R38,
R69). -/

namespace Sys2Proof.Machine

variable {s t : State} {c : Instr}

/-! ### The tree's weight and TOTAL -/

/-- A valid tree from BUILD weighs TOTAL, which is 0 when the tree is empty. -/
def WeighsTotal (s : State) : Prop :=
  s.treeValid = true → s.treeDec = false →
    (s.root = none → s.total = 0) ∧ ∀ r, s.root = some r → (s.node[r]).weight = s.total

theorem weighsTotal_of_invalid (h : s.treeValid = false) : WeighsTotal s :=
  fun hv => absurd (h.symm.trans hv) Bool.false_ne_true

theorem weighsTotal_of_decoded (h : s.treeDec = true) : WeighsTotal s :=
  fun _ hd => absurd (hd.symm.trans h) Bool.false_ne_true

theorem headerInv_iff : s.HeaderInv ↔
    s.CountsInv ∧ (Runs .count s → s.treeValid = false) ∧ (Runs .decode s → s.treeDec = true) ∧ WeighsTotal s := by
  constructor
  · rintro ⟨hcounts, hcount, hdecode, hempty, hweight⟩
    exact ⟨hcounts, hcount, hdecode, fun hv hd => ⟨hempty hv hd, hweight hv hd⟩⟩
  · rintro ⟨hcounts, hcount, hdecode, hmatch⟩
    exact ⟨hcounts, hcount, hdecode, fun hv hd => (hmatch hv hd).1, fun hv hd => (hmatch hv hd).2⟩

theorem headerInv_of_stopped (hb : s.busy = false) (hcounts : s.CountsInv) (h : WeighsTotal s) : s.HeaderInv :=
  headerInv_iff.mpr ⟨hcounts, fun hr => absurd (hb.symm.trans hr.1) Bool.false_ne_true,
    fun hr => absurd (hb.symm.trans hr.1) Bool.false_ne_true, h⟩

/-! ### The writers of TOTAL and the tree -/

/-- BUILD makes the empty tree of the empty table only (41_tree_builder.md R244). -/
theorem freqSum_of_buildTree_none {f : SymTable Word} (h : (buildTree f).2 = none) : freqSum f = 0 := by
  have hnone : presentSymbols f = [] := by
    refine List.eq_nil_iff_forall_not_mem.mpr fun b hb => ?_
    obtain ⟨r, hr⟩ := buildTree_root_exists (mem_presentSymbols.mp hb)
    exact nomatch h.symm.trans hr
  rw [← labelCount_presentSymbols, hnone]
  rfl

theorem exec_build_weighsTotal (hs : s.CountsInv) (hstart : AtStart s) (h : exec .build s = .next t) :
    WeighsTotal t := by
  obtain ⟨-, hweight⟩ := Proofs.builtWeightsAreSubtreeSums s t hstart hs h
  obtain rfl := exec_build_next hstart h
  refine fun _ _ => ⟨fun hnone => ?_, hweight⟩
  exact BitVec.eq_of_toNat_eq (hs.total.symm.trans (freqSum_of_buildTree_none hnone))

/-- WRFREQ invalidates the tree or writes nothing (40_frequency.md R210). -/
theorem wrfreqBody_weighsTotal (b : Byte) (h : WeighsTotal s) : WeighsTotal (wrfreqBody b s) := by
  unfold wrfreqBody
  split
  · exact weighsTotal_of_invalid rfl
  · exact h

/-- A micro-step of COUNT leaves TREE_VALID and one of DECODE leaves TREE_DEC. -/
theorem exec_keeps_treeFlags (hb : s.busy = true) (h : exec c s = .next t) :
    (c = .count → t.treeValid = s.treeValid) ∧ (c = .decode → t.treeDec = s.treeDec) := by
  have hf := exec_microStepFrame hb h
  constructor <;> rintro rfl
  · exact (congrArg State.treeValid hf :)
  · exact (congrArg State.treeDec hf :)

theorem exec_weighsTotal (hs : s.HeaderInv) (hrun : Runs c s) (h : exec c s = .next t) : WeighsTotal t := by
  obtain ⟨hcounts, hcount, hdecode, hmatch⟩ := headerInv_iff.mp hs
  obtain ⟨hvalid, hdec⟩ := exec_keeps_treeFlags hrun.1 h
  have hf := exec_microStepFrame hrun.1 h
  cases c
  case build => exact exec_build_weighsTotal hcounts ⟨hrun.1, (runCommand_singleStep_cases hrun.1 h).1⟩ h
  case count => exact weighsTotal_of_invalid ((hvalid rfl).trans (hcount hrun))
  case decode => exact weighsTotal_of_decoded ((hdec rfl).trans (hdecode hrun))
  case clrfreq => cases (runCommand_singleStep_cases hrun.1 h).2; exact weighsTotal_of_invalid rfl
  case wrfreq b => cases (runCommand_singleStep_cases hrun.1 h).2; exact wrfreqBody_weighsTotal b hmatch
  all_goals rw [hf]; exact hmatch

theorem exec_headerInv (hs : s.HeaderInv) (hrun : Runs c s) (h : exec c s = .next t) : t.HeaderInv := by
  obtain ⟨hvalid, hdec⟩ := exec_keeps_treeFlags hrun.1 h
  refine headerInv_iff.mpr ⟨exec_countsInv hs.counts hrun.1 h, fun ht => ?_, fun ht => ?_,
    exec_weighsTotal hs hrun h⟩
  · obtain rfl := hrun.of_exec h ht
    exact (hvalid rfl).trans (hs.count hrun)
  · obtain rfl := hrun.of_exec h ht
    exact (hdec rfl).trans (hs.decode hrun)

/-- COUNT is accepted with TREE_VALID cleared and DECODE with TREE_DEC set (R382, R383). -/
theorem Presented.headerInv (hs : s.HeaderInv) (h : Presented s t) : t.HeaderInv := by
  obtain ⟨-, -, -, hmatch⟩ := headerInv_iff.mp hs
  have hcounts : t.CountsInv := h.frame ▸ hs.counts.congr rfl rfl rfl
  obtain ⟨e, rfl⟩ | ⟨c, hc, -, rfl⟩ := h
  · exact headerInv_of_stopped rfl hcounts hmatch
  · refine headerInv_iff.mpr ⟨hcounts, fun ht => ?_, fun ht => ?_, ?_⟩
    · obtain rfl := Runs.of_accept hc ht
      rfl
    · obtain rfl := Runs.of_accept hc ht
      rfl
    · cases c
      case count | decode => exact weighsTotal_of_invalid rfl
      all_goals exact hmatch

end Sys2Proof.Machine

namespace Sys2Proof.Proofs

open Sys2Proof.Machine

/-- Settles O53: BUILD alone makes a tree with TREE_DEC = 0, of weight TOTAL, and what writes TOTAL later invalidates
it. -/
theorem stepKeepsTheHeaderCountConsistent : Obligations.StepKeepsTheHeaderCountConsistent := by
  intro s t hs h
  refine step_induction ?host ?reset ?idle ?micro hs h
  case host =>
    rintro s t hs ⟨hf, -, -⟩
    rw [hf]
    exact ⟨hs.counts.congr rfl rfl rfl, hs.count, hs.decode, hs.empty, hs.weight⟩
  case reset =>
    exact fun s _ => headerInv_of_stopped rfl (countsInv_zero rfl rfl rfl) (weighsTotal_of_invalid rfl)
  case idle => exact fun s t hs _ hp => hp.headerInv hs
  case micro => exact fun c s t hs hrun hexec => exec_headerInv hs hrun hexec

end Sys2Proof.Proofs
end

section
/-! PROOFS. 44_decoder.md: DECODE's header, micro-step by micro-step (R333, R334) and bit by bit (R335, R336). -/

namespace Sys2Proof.Machine

variable {s t u : State} {pos q : TreePos} {b : Bool} {i : Fin 511} {rest : List Token} {k : Token}
  {x : Byte}

/-! ### The micro-steps of the count phase and the tree phase -/

theorem exec_decode_busy (h : s.busy = true) : exec .decode s = decodeBody s := runCommand_busy h

theorem decodeBody_accepted (h : s.point = .accepted) : decodeBody s = .next (goto (.decCount 0 0) s) := by
  simp [decodeBody, h]

theorem decodeBody_count_wait {m : Fin 4} {n : Word} (hp : s.point = .decCount m n) (h : s.inFifo = []) :
    decodeBody s = .next s := by
  simp [decodeBody, hp, popIn_nil h]

theorem decodeBody_count_pop {m : Fin 4} {n : Word} (hp : s.point = .decCount m n) (h : s.inFifo = k :: rest) :
    decodeBody s = .next (decCountToken m n k { s with inFifo := rest }) := by
  simp [decodeBody, hp, popIn_cons h]

theorem decodeBody_tree_wait (hp : s.point = .decTree pos) (h : s.inFifo = []) : decodeBody s = .next s := by
  simp [decodeBody, hp, popIn_nil h]

theorem decodeBody_tree_pop (hp : s.point = .decTree pos) (h : s.inFifo = k :: rest) :
    decodeBody s = .next (decTreeToken pos k { s with inFifo := rest }) := by
  simp [decodeBody, hp, popIn_cons h]

/-- The byte `b` is popped into DBYTE, the tokens `rest` are left (R333). -/
def popByte (b : Byte) (rest : List Token) (s : State) : State := { s with inFifo := rest, dbyte := b, dbits := 8 }

/-- One micro-step of the tree phase on a data token. -/
theorem exec_treeByte {b : Byte} (hb : s.busy = true) (hp : s.point = .decTree pos)
    (hin : s.inFifo = .data b :: rest) : exec .decode s = .next (headerBits 8 pos (popByte b rest s)) :=
  (exec_decode_busy hb).trans (decodeBody_tree_pop hp hin)

/-! ### The switch to streaming (R338) -/

theorem startStreaming_eq (s : State) : ∃ p, (p = .decTok ∨ p = .decDegen) ∧ startStreaming s =
    { s with treeValid := true, dstate := .streamingBits, walk := none, point := p } := by
  unfold startStreaming
  dsimp only
  split
  · exact ⟨_, .inl rfl, rfl⟩
  · split
    · exact ⟨_, .inr rfl, rfl⟩
    · exact ⟨_, .inl rfl, rfl⟩

/-! ### One header bit (R335) -/

/-- Shifting `y` into `x` from the right. -/
theorem shiftLeft_or_setWidth {n m : Nat} (x : BitVec n) (y : BitVec m) (h : m ≤ n) :
    x <<< m ||| y.setWidth n = BitVec.ofNat n (x.toNat * 2 ^ m + y.toNat) := by
  have hy : y.toNat < 2 ^ n := y.isLt.trans_le (Nat.pow_le_pow_right (by decide) h)
  apply BitVec.eq_of_toNat_eq
  rw [BitVec.toNat_or, BitVec.toNat_shiftLeft, BitVec.toNat_setWidth, Nat.mod_eq_of_lt hy, BitVec.toNat_ofNat,
    ← Nat.shiftLeft_eq, Nat.shiftLeft_add_eq_or_of_lt y.isLt, Nat.or_mod_two_pow, Nat.mod_eq_of_lt hy]

/-- A symbol bit shifted into the symbol read so far. -/
theorem shiftIn_eq (acc : Byte) (b : Bool) :
    acc <<< 1 ||| (BitVec.ofBool b).setWidth 8 = BitVec.ofNat 8 (acc.toNat * 2 + b.toNat) := by
  simpa using shiftLeft_or_setWidth acc (BitVec.ofBool b) (by decide)

theorem tagBit_full (h : s.next.val = 511) : tagBit b s = .malformed s := by
  simp [tagBit, h]

theorem tagBit_leaf (h : s.next.val = i.val) : tagBit true s = .more (.sym i 0 0) { s with next := s.next + 1 } := by
  simp [tagBit, h]

/-- Attaching looks at NODE and PSTACK only, and writes them only. -/
theorem attach_congr (hnode : u.node = s.node) (hstack : u.pstack = s.pstack) :
    attach i u = { u with node := (attach i s).node, pstack := (attach i s).pstack } := by
  unfold attach
  rw [hnode, hstack]
  split
  · rw [← hnode, ← hstack]
  · split
    · simp only [State.setNode, hnode, hstack]
    · simp only [State.setNode, hnode]

/-- A record that is nobody's parent yet may be written before it is attached or after. -/
theorem attach_setNode (h : i ∉ s.pstack) (n : Node) : attach i (s.setNode i n) = (attach i s).setNode i n := by
  unfold attach
  rw [setNode_pstack]
  split
  · rfl
  · next p rest hs =>
    have hne : i ≠ p := fun e => h (by rw [hs, e]; exact List.mem_cons_self)
    have hcomm (m : Node) : (s.setNode i n).setNode p m = (s.setNode p m).setNode i n := by
      simp only [State.setNode, Vector.set_comm _ _ (Fin.val_ne_of_ne hne)]
    rw [setNode_get, if_neg hne, hcomm, hcomm]
    split <;> rfl

/-- Record `i` becomes an internal node without children, attached to its parent and on PSTACK. -/
def withInner (i : Fin 511) (s : State) : State :=
  { s with
    node := (attach i (s.setNode i (innerNode none none 0))).node
    next := s.next + 1
    pstack := i :: (attach i (s.setNode i (innerNode none none 0))).pstack }

/-- Record `i` becomes the leaf of symbol `x`, attached to its parent. -/
def withLeaf (i : Fin 511) (x : Byte) (s : State) : State :=
  { s with
    node := (attach i (s.setNode i (leafNode x 0))).node
    pstack := (attach i (s.setNode i (leafNode x 0))).pstack
    seen := symPut s.seen x true }

theorem tagBit_inner (h : s.next.val = i.val) : tagBit false s = .more .tag (withInner i s) := by
  have hattach := attach_congr (i := i) (u := { s with next := s.next + 1 }.setNode i (innerNode none none 0))
    (s := s.setNode i (innerNode none none 0)) rfl rfl
  simp only [tagBit, h, i.isLt, dif_pos, Fin.eta, hattach]
  rfl

theorem leafRead_seen {x : Byte} (h : symGet s.seen x = true) : leafRead i x s = .malformed s := if_pos h

theorem leafRead_new {x : Byte} (h : symGet s.seen x = false) :
    leafRead i x s =
      if (withLeaf i x s).pstack = [] then .complete { withLeaf i x s with root := some 0, dbits := 0 }
      else .more .tag (withLeaf i x s) := by
  have hattach := attach_congr (i := i) (u := { s with seen := symPut s.seen x true }.setNode i (leafNode x 0))
    (s := s.setNode i (leafNode x 0)) rfl rfl
  simp only [leafRead, h, hattach]
  rfl

theorem headerBit_tag : headerBit b .tag s = tagBit b s := rfl

theorem headerBit_sym_more {m : Fin 8} {acc : Byte} (h : m ≠ 7) :
    headerBit b (.sym i m acc) s = .more (.sym i (m + 1) (acc <<< 1 ||| (BitVec.ofBool b).setWidth 8)) s :=
  if_neg h

theorem headerBit_sym_last {acc : Byte} :
    headerBit b (.sym i 7 acc) s = leafRead i (acc <<< 1 ||| (BitVec.ofBool b).setWidth 8) s := rfl

/-- The symbol a leaf's last bit `b` completes. -/
def lastSymbol (acc : Byte) (b : Bool) : Byte := BitVec.ofNat 8 (acc.toNat * 2 + b.toNat)

/-- The two defects a header bit can show (R336 c, d): a tag with the arena full, and the last symbol bit of a leaf whose
symbol was seen. -/
def BitDefect (b : Bool) (pos : TreePos) (s : State) : Prop :=
  pos = .tag ∧ s.next.val = 511 ∨ ∃ i acc, pos = .sym i 7 acc ∧ symGet s.seen (lastSymbol acc b) = true

/-- Everything a header bit can lead to. -/
inductive HeaderBitCase (b : Bool) (pos : TreePos) (s : State) : HeaderStep → Prop
  | malformed (h : BitDefect b pos s) : HeaderBitCase b pos s (.malformed s)
  | leafTag (i : Fin 511) (hpos : pos = .tag) (hnext : s.next.val = i.val) (hb : b = true) :
      HeaderBitCase b pos s (.more (.sym i 0 0) { s with next := s.next + 1 })
  | innerTag (i : Fin 511) (hpos : pos = .tag) (hnext : s.next.val = i.val) (hb : b = false) :
      HeaderBitCase b pos s (.more .tag (withInner i s))
  | symbolBit (i : Fin 511) (m : Fin 8) (acc acc' : Byte) (hpos : pos = .sym i m acc) (hm : m ≠ 7) :
      HeaderBitCase b pos s (.more (.sym i (m + 1) acc') s)
  | leaf (i : Fin 511) (acc : Byte) (hpos : pos = .sym i 7 acc) (hseen : symGet s.seen (lastSymbol acc b) = false)
      (hmore : (withLeaf i (lastSymbol acc b) s).pstack ≠ []) :
      HeaderBitCase b pos s (.more .tag (withLeaf i (lastSymbol acc b) s))
  | lastLeaf (i : Fin 511) (acc : Byte) (hpos : pos = .sym i 7 acc) (hseen : symGet s.seen (lastSymbol acc b) = false)
      (hempty : (withLeaf i (lastSymbol acc b) s).pstack = []) :
      HeaderBitCase b pos s (.complete { withLeaf i (lastSymbol acc b) s with root := some 0, dbits := 0 })

theorem headerBit_cases (b : Bool) (pos : TreePos) (s : State) : HeaderBitCase b pos s (headerBit b pos s) := by
  cases pos with
  | tag =>
    by_cases hlt : s.next.val < 511
    · obtain ⟨i, hi⟩ : ∃ i : Fin 511, s.next.val = i.val := ⟨⟨_, hlt⟩, rfl⟩
      cases b with
      | true => rw [headerBit_tag, tagBit_leaf hi]; exact .leafTag i rfl hi rfl
      | false => rw [headerBit_tag, tagBit_inner hi]; exact .innerTag i rfl hi rfl
    · have hfull : s.next.val = 511 := by omega
      rw [headerBit_tag, tagBit_full hfull]
      exact .malformed (.inl ⟨rfl, hfull⟩)
  | sym i m acc =>
    by_cases hm : m = 7
    · subst hm
      rw [headerBit_sym_last, shiftIn_eq, ← lastSymbol]
      cases hseen : symGet s.seen (lastSymbol acc b) with
      | true => exact leafRead_seen hseen ▸ .malformed (.inr ⟨i, acc, rfl, hseen⟩)
      | false =>
        rw [leafRead_new hseen]
        split
        · next hempty => exact .lastLeaf i acc rfl hseen hempty
        · next hmore => exact .leaf i acc rfl hseen hmore
    · exact headerBit_sym_more hm ▸ .symbolBit i m acc _ rfl hm

theorem headerBit_malformed (h : headerBit b pos s = .malformed t) : t = s ∧ BitDefect b pos s := by
  have hc := headerBit_cases b pos s
  rw [h] at hc
  cases hc with
  | malformed hdefect => exact ⟨rfl, hdefect⟩

theorem headerBit_of_defect (h : BitDefect b pos s) : headerBit b pos s = .malformed s := by
  obtain ⟨rfl, hfull⟩ | ⟨i, acc, rfl, hseen⟩ := h
  · exact tagBit_full hfull
  · rw [headerBit_sym_last, shiftIn_eq]
    exact leafRead_seen hseen

/-- A header bit that leaves the tree incomplete changes NODE, PSTACK, NEXT and SEEN only. -/
theorem headerBit_more_frame (h : headerBit b pos s = .more q t) :
    t = { s with node := t.node, pstack := t.pstack, next := t.next, seen := t.seen } := by
  have hc := headerBit_cases b pos s
  rw [h] at hc
  cases hc <;> rfl

/-- A header bit that completes the tree changes NODE, PSTACK, SEEN and DBITS, and ROOT to 0, only. -/
theorem headerBit_complete_frame (h : headerBit b pos s = .complete t) :
    t = { s with node := t.node, pstack := t.pstack, seen := t.seen, root := some 0, dbits := 0 } := by
  have hc := headerBit_cases b pos s
  rw [h] at hc
  cases hc
  rfl

/-! ### The count phase (R334) -/

theorem startStreaming_empty (h : s.root = none) : startStreaming s =
    { s with treeValid := true, dstate := .streamingBits, walk := none, point := .decTok } := by
  unfold startStreaming
  simp only [endWalk, h, goto]

/-- A byte shifted into the count read so far. -/
theorem shiftInByte_eq (n : Word) (b : Byte) :
    n <<< 8 ||| b.setWidth 32 = BitVec.ofNat 32 (n.toNat * 256 + b.toNat) :=
  shiftLeft_or_setWidth n b (by decide)

theorem decCountToken_more {m : Fin 4} {n : Word} {b : Byte} (h : m ≠ 3) :
    decCountToken m n (.data b) s =
      { s with point := .decCount (m + 1) (BitVec.ofNat 32 (n.toNat * 256 + b.toNat)) } := by
  rw [← shiftInByte_eq]
  exact if_neg h

theorem decCountToken_last {n : Word} {b : Byte} :
    decCountToken 3 n (.data b) s = countDone (BitVec.ofNat 32 (n.toNat * 256 + b.toNat)) s := by
  rw [← shiftInByte_eq]
  rfl

/-! ### The bits of a token (R333) -/

theorem afterHeaderBits_succ {j : Nat} (h : Claims.afterHeaderBits (j + 1) pos s = some (q, u)) :
    ∃ p t, Claims.afterHeaderBits j pos s = some (p, t) ∧
      headerBit (t.dbyte.getLsbD (7 - j)) p { t with dbits := BitVec.ofNat 4 (7 - j) } = .more q u := by
  rw [Claims.afterHeaderBits] at h
  cases hj : Claims.afterHeaderBits j pos s with
  | none => rw [hj] at h; cases h
  | some x =>
    rw [hj] at h
    refine ⟨x.1, x.2, rfl, ?_⟩
    cases hbit : headerBit (x.2.dbyte.getLsbD (7 - j)) x.1 { x.2 with dbits := BitVec.ofNat 4 (7 - j) } <;>
      simp only [hbit] at h <;> cases h
    rfl

theorem afterHeaderBits_of_more {j : Nat} {p : TreePos} (h : Claims.afterHeaderBits j pos s = some (p, t))
    (hbit : headerBit (t.dbyte.getLsbD (7 - j)) p { t with dbits := BitVec.ofNat 4 (7 - j) } = .more q u) :
    Claims.afterHeaderBits (j + 1) pos s = some (q, u) := by
  rw [Claims.afterHeaderBits, h]
  simp only [hbit]

/-- The bits of a byte that leave the tree incomplete change NODE, PSTACK, NEXT, SEEN and DBITS only. -/
theorem afterHeaderBits_frame {j : Nat} (h : Claims.afterHeaderBits j pos (popByte x rest s) = some (q, u)) :
    u = { popByte x rest s with
      node := u.node, pstack := u.pstack, next := u.next, seen := u.seen, dbits := BitVec.ofNat 4 (8 - j) } := by
  induction j generalizing q u with
  | zero => cases h; rfl
  | succ j ih =>
    obtain ⟨p, t, ht, hmore⟩ := afterHeaderBits_succ h
    have hframe := headerBit_more_frame hmore
    rw [ih ht] at hframe
    rw [hframe, Nat.succ_sub_succ]

/-- Bit by bit from the front is the same as bit by bit down to the last. -/
theorem headerBits_of_afterHeaderBits {j : Nat} (hj : j ≤ 8) (h : Claims.afterHeaderBits j pos s = some (q, u)) :
    headerBits 8 pos s = headerBits (8 - j) q u := by
  induction j generalizing q u with
  | zero => cases h; rfl
  | succ j ih =>
    obtain ⟨p, t, ht, hmore⟩ := afterHeaderBits_succ h
    have hbits : 8 - j = (7 - j) + 1 := by omega
    rw [ih (by omega) ht, hbits, headerBits, hmore, Nat.succ_sub_succ]

/-- A defect at a bit of a byte raises MALFORMED_HEADER with the bits after it left. -/
theorem headerBits_of_defect {j : Nat} (hj : j < 8)
    (h : Claims.afterHeaderBits j pos (popByte x rest s) = some (q, u)) (hdefect : BitDefect (x.getLsbD (7 - j)) q u) :
    headerBits 8 pos (popByte x rest s) = raiseError .malformedHeader { u with dbits := BitVec.ofNat 4 (7 - j) } := by
  have hbyte : u.dbyte = x := (congrArg State.dbyte (afterHeaderBits_frame h) :)
  have hbits : 8 - j = (7 - j) + 1 := by omega
  have hbit : headerBit (u.dbyte.getLsbD (7 - j)) q { u with dbits := BitVec.ofNat 4 (7 - j) } = _ :=
    headerBit_of_defect (s := { u with dbits := BitVec.ofNat 4 (7 - j) }) (hbyte ▸ hdefect)
  rw [headerBits_of_afterHeaderBits hj.le h, hbits, headerBits, hbit]

/-- The tree phase raises an error only at a defect. -/
theorem headerBits_err {j n : Nat} (hn : j + n = 8) (h : Claims.afterHeaderBits j pos s = some (q, u))
    (hu : u.err = false) (herr : (headerBits n q u).err = true) :
    ∃ j p t, j < 8 ∧ Claims.afterHeaderBits j pos s = some (p, t) ∧ BitDefect (t.dbyte.getLsbD (7 - j)) p t := by
  induction n generalizing j q u with
  | zero => exact absurd (hu.symm.trans herr) Bool.false_ne_true
  | succ n ih =>
    obtain rfl : n = 7 - j := by omega
    rw [headerBits] at herr
    cases hbit : headerBit (u.dbyte.getLsbD (7 - j)) q { u with dbits := BitVec.ofNat 4 (7 - j) } with
    | more p t =>
      rw [hbit] at herr
      refine ih (by omega) (afterHeaderBits_of_more h hbit) ?_ herr
      exact (congrArg State.err (headerBit_more_frame hbit)).trans hu
    | complete t =>
      rw [hbit] at herr
      obtain ⟨_, -, he⟩ := startStreaming_eq t
      have ht : t.err = false := (congrArg State.err (headerBit_complete_frame hbit)).trans hu
      exact absurd (ht.symm.trans ((congrArg State.err he).symm.trans herr)) Bool.false_ne_true
    | malformed t => exact ⟨j, q, u, by omega, h, (headerBit_malformed hbit).2⟩

end Sys2Proof.Machine

namespace Sys2Proof.Proofs

open Sys2Proof.Machine

/-- Settles O30: by the number of bytes read before, the last of the four by the count. -/
theorem decodeCountPhaseReadsTheCount : Obligations.DecodeCountPhaseReadsTheCount := by
  intro s hb
  rw [exec_decode_busy hb]
  refine ⟨decodeBody_accepted, fun k n hp => ⟨decodeBody_count_wait hp, fun b rest hin => ?_⟩⟩
  rw [decodeBody_count_pop hp hin]
  refine ⟨fun hk => congrArg _ (decCountToken_more hk), fun hk hm => ?tree, fun hk hm => ?empty⟩
  case tree =>
    rw [hk, decCountToken_last, countDone, if_neg hm]
    rfl
  case empty =>
    rw [hk, decCountToken_last, countDone, if_pos hm, startStreaming_empty rfl]
    rfl

/-- Settles O31: a bit raises an error exactly at a defect (`headerBit_cases`), at every bit of a token. -/
theorem headerDefectsAreMalformed : Obligations.HeaderDefectsAreMalformed := by
  intro s hb
  refine ⟨fun pos hp hin => (exec_decode_busy hb).trans (decodeBody_tree_wait hp hin), fun rest hin hp => ?eos,
    fun b rest pos hin hp => ?data⟩
  case eos =>
    rw [exec_decode_busy hb]
    obtain ⟨k, n, hp⟩ | ⟨pos, hp⟩ := hp
    · rw [decodeBody_count_pop hp hin]; rfl
    · rw [decodeBody_tree_pop hp hin]; rfl
  case data =>
    rw [exec_treeByte hb hp hin]
    refine ⟨fun j p u hj hafter => ⟨afterHeaderBits_frame hafter, fun hdefect => ?defect⟩, fun t ht hnoerr herr => ?converse⟩
    case defect => exact congrArg _ (headerBits_of_defect hj hafter hdefect)
    case converse =>
      cases ht
      obtain ⟨j, p, u, hj, hafter, hdefect⟩ :=
        headerBits_err (u := popByte b rest s) (j := 0) (n := 8) rfl rfl hnoerr herr
      have hbyte : u.dbyte = b := (congrArg State.dbyte (afterHeaderBits_frame hafter) :)
      exact ⟨j, p, u, hj, hafter, hbyte ▸ hdefect⟩

end Sys2Proof.Proofs
end

section
/-! PROOFS. 44_decoder.md R335, R337, R338: DECODE's tree phase reads back the tree that was serialised, record by record
in pre-order. -/

namespace Sys2Proof.Machine

variable {s t u v : State} {pos : TreePos} {i j : Fin 511} {a a' : Arena} {p q : Bits} {tree : Tree} {m : Nat}
  {rest : List Token}

/-! ### The tree field as a bit string -/

/-- The tree phase on a bit string: the arena and the bits left over when a bit completes the tree. -/
def readTree (p : Bits) (pos : TreePos) (s : State) : Option (Arena × Bits) :=
  match p with
  | [] => none
  | b :: p =>
    match headerBit b pos s with
    | .more pos' s' => readTree p pos' s'
    | .complete s' => some (s'.node, p)
    | .malformed _ => none

/-- The tree phase on the bits after a header step. -/
def HeaderStep.thenRead (p : Bits) (h : HeaderStep) : Option (Arena × Bits) :=
  match h with
  | .more pos s => readTree p pos s
  | .complete s => some (s.node, p)
  | .malformed _ => none

theorem readTree_cons (b : Bool) (p : Bits) (pos : TreePos) (s : State) :
    readTree (b :: p) pos s = (headerBit b pos s).thenRead p := by
  rw [readTree]
  cases headerBit b pos s <;> rfl

/-! ### The registers of the header -/

/-- The state `v` with the registers that the header's bits work on as they are in `s`. -/
def withHeader (v s : State) : State :=
  { v with node := s.node, next := s.next, pstack := s.pstack, seen := s.seen }

/-- A header step on another state with the same header registers. -/
def HeaderStep.onto (v : State) (h : HeaderStep) : HeaderStep :=
  match h with
  | .more pos s => .more pos (withHeader v s)
  | .complete s => .complete { withHeader v s with root := s.root, dbits := 0 }
  | .malformed s => .malformed (withHeader v s)

theorem withInner_withHeader (i : Fin 511) (v s : State) :
    withInner i (withHeader v s) = withHeader v (withInner i s) := by
  have hattach := attach_congr (i := i) (u := (withHeader v s).setNode i (innerNode none none 0))
    (s := s.setNode i (innerNode none none 0)) rfl rfl
  unfold withInner
  rw [hattach]
  rfl

theorem withLeaf_withHeader (i : Fin 511) (x : Byte) (v s : State) :
    withLeaf i x (withHeader v s) = withHeader v (withLeaf i x s) := by
  have hattach := attach_congr (i := i) (u := (withHeader v s).setNode i (leafNode x 0))
    (s := s.setNode i (leafNode x 0)) rfl rfl
  unfold withLeaf
  rw [hattach]
  rfl

theorem leafRead_withHeader (i : Fin 511) (x : Byte) (v s : State) :
    leafRead i x (withHeader v s) = (leafRead i x s).onto v := by
  cases hseen : symGet s.seen x with
  | true => rw [leafRead_seen hseen, leafRead_seen (s := withHeader v s) hseen]; rfl
  | false =>
    rw [leafRead_new hseen, leafRead_new (s := withHeader v s) hseen, withLeaf_withHeader]
    by_cases hempty : (withLeaf i x s).pstack = []
    · rw [if_pos hempty, if_pos (show (withHeader v (withLeaf i x s)).pstack = [] from hempty)]
      rfl
    · rw [if_neg hempty, if_neg (show ¬(withHeader v (withLeaf i x s)).pstack = [] from hempty)]
      rfl

theorem tagBit_withHeader (b : Bool) (v s : State) : tagBit b (withHeader v s) = (tagBit b s).onto v := by
  by_cases hfull : s.next.val < 511
  · obtain ⟨i, hi⟩ : ∃ i : Fin 511, s.next.val = i.val := ⟨⟨_, hfull⟩, rfl⟩
    cases b with
    | true => rw [tagBit_leaf hi, tagBit_leaf (s := withHeader v s) hi]; rfl
    | false => rw [tagBit_inner hi, tagBit_inner (s := withHeader v s) hi, withInner_withHeader]; rfl
  · have hmax : s.next.val = 511 := by omega
    rw [tagBit_full hmax, tagBit_full (s := withHeader v s) hmax]
    rfl

/-- A header bit looks at the header registers only. -/
theorem headerBit_withHeader (b : Bool) (pos : TreePos) (v s : State) :
    headerBit b pos (withHeader v s) = (headerBit b pos s).onto v := by
  cases pos with
  | tag => exact tagBit_withHeader b v s
  | sym i k acc =>
    by_cases hk : k = 7
    · subst hk
      exact leafRead_withHeader i _ v s
    · rw [headerBit_sym_more hk, headerBit_sym_more hk]
      rfl

theorem readTree_withHeader (p : Bits) (pos : TreePos) (v s : State) :
    readTree p pos (withHeader v s) = readTree p pos s := by
  induction p generalizing pos s with
  | nil => rfl
  | cons b p ih =>
    rw [readTree_cons, readTree_cons, headerBit_withHeader]
    cases headerBit b pos s with
    | more pos' s' => exact ih pos' s'
    | complete s' => rfl
    | malformed s' => rfl

theorem readTree_congr {r : Option (Arena × Bits)} (h : readTree p pos s = r) (hnode : u.node = s.node)
    (hnext : u.next = s.next) (hstack : u.pstack = s.pstack) (hseen : u.seen = s.seen) : readTree p pos u = r := by
  have hu : withHeader u s = u := by
    rw [withHeader, ← hnode, ← hnext, ← hstack, ← hseen]
  rw [← hu, readTree_withHeader, h]

/-! ### A serialised leaf -/

/-- The next bit of `x` shifted into the bits before it. -/
theorem shiftIn_shiftRight (x : Byte) (m : Nat) :
    x >>> (m + 1) <<< 1 ||| (BitVec.ofBool (x.toNat.testBit m)).setWidth 8 = x >>> m := by
  have hx : x.toNat / 2 ^ m < 256 := (Nat.div_le_self _ _).trans_lt x.isLt
  rw [shiftIn_eq]
  apply BitVec.eq_of_toNat_eq
  rw [BitVec.toNat_ofNat, BitVec.toNat_ushiftRight, BitVec.toNat_ushiftRight, Nat.toNat_testBit,
    Nat.shiftRight_eq_div_pow, Nat.shiftRight_eq_div_pow, Nat.pow_succ, ← Nat.div_div_eq_div_mul]
  omega

/-- Before the last `m + 1` bits of the symbol `x`, `n` bits have been read. -/
theorem readTree_symbolBits (x : Byte) {n : Fin 8} (hn : n.val + m = 7) :
    readTree (bin (m + 1) x.toNat ++ q) (.sym i n (x >>> (m + 1))) s = (leafRead i x s).thenRead q := by
  induction m generalizing n with
  | zero =>
    obtain rfl : n = 7 := Fin.ext hn
    change readTree (x.toNat.testBit 0 :: q) _ s = _
    rw [readTree_cons, headerBit_sym_last, shiftIn_shiftRight, BitVec.ushiftRight_zero]
  | succ m ih =>
    have hlast : n ≠ 7 := fun e => by subst e; simp at hn
    have hnext : (n + 1).val = n.val + 1 := Fin.val_add_one_of_lt' (by omega)
    change readTree (x.toNat.testBit (m + 1) :: (bin (m + 1) x.toNat ++ q)) _ s = _
    rw [readTree_cons, headerBit_sym_more hlast, shiftIn_shiftRight]
    exact ih (by omega)

/-! ### A serialised tree -/

/-- The number of records of a tree. -/
def Tree.records (t : Tree) : Nat :=
  match t with
  | .leaf _ => 1
  | .node l r => l.records + r.records + 1

theorem records_pos (t : Tree) : 1 ≤ t.records := by
  cases t <;> simp [Tree.records]

theorem records_eq (t : Tree) : t.records + 1 = 2 * (leafSymbols t).length := by
  induction t with
  | leaf x => rfl
  | node l r ihl ihr =>
    simp only [Tree.records, leafSymbols, List.length_append]
    omega

/-- The tree stands in the arena in pre-order, from record `i` on (R335). -/
def PreorderAt (a : Arena) (i : Fin 511) (t : Tree) : Prop :=
  match t with
  | .leaf x => a[i] = leafNode x 0
  | .node l r => ∃ c d : Fin 511, a[i] = innerNode (some c) (some d) 0 ∧
      c.val = i.val + 1 ∧ d.val = i.val + 1 + l.records ∧ PreorderAt a c l ∧ PreorderAt a d r

theorem PreorderAt.congr (h : PreorderAt a i tree)
    (hsame : ∀ j : Fin 511, i ≤ j → j.val < i.val + tree.records → a'[j] = a[j]) : PreorderAt a' i tree := by
  induction tree generalizing i with
  | leaf x => exact (hsame i le_rfl (Nat.lt_succ_self _)).trans h
  | node l r ihl ihr =>
    obtain ⟨c, d, hi, hc, hd, hl, hr⟩ := h
    have hrec : (Tree.node l r).records = l.records + r.records + 1 := rfl
    refine ⟨c, d, (hsame i le_rfl (by omega)).trans hi, hc, hd, ihl hl fun j hj hlt => ?_, ihr hr fun j hj hlt => ?_⟩
    · exact hsame j (Fin.le_def.mpr (by rw [Fin.le_def] at hj; omega)) (by omega)
    · exact hsame j (Fin.le_def.mpr (by rw [Fin.le_def] at hj; omega)) (by omega)

theorem PreorderAt.treeAt (h : PreorderAt a i tree) (hm : tree.records ≤ m) : treeAt m a i = some tree := by
  induction tree generalizing i m with
  | leaf x =>
    obtain ⟨m, rfl⟩ : ∃ k, m = k + 1 := ⟨m - 1, by have := records_pos (.leaf x); omega⟩
    have hi : a[i] = leafNode x 0 := h
    have := treeAt_leaf (k := m) (a := a) (i := i) (by rw [hi]; rfl) (by rw [hi]; rfl)
    rwa [hi] at this
  | node l r ihl ihr =>
    obtain ⟨c, d, hi, -, -, hl, hr⟩ := h
    have hrec : (Tree.node l r).records = l.records + r.records + 1 := rfl
    obtain ⟨m, rfl⟩ : ∃ k, m = k + 1 := ⟨m - 1, by omega⟩
    exact treeAt_node (by rw [hi]; rfl) (by rw [hi]; rfl) (by rw [hi]; rfl) (by rw [hi]; rfl)
      (ihl hl (by omega)) (ihr hr (by omega))

/-- A child of an internal node without children becomes its LEFT. -/
theorem attach_left {c : Fin 511} {ps : List (Fin 511)} {w : Word} (hs : s.pstack = i :: ps)
    (hi : s.node[i] = innerNode none none w) : attach c s = s.setNode i (innerNode (some c) none w) := by
  rw [attach, hs]
  simp only [hi, innerNode, if_true]

/-- The second child becomes RIGHT, and the parent is popped. -/
theorem attach_right {c d : Fin 511} {ps : List (Fin 511)} {w : Word} (hs : s.pstack = i :: ps)
    (hi : s.node[i] = innerNode (some c) none w) :
    attach d s = { s.setNode i (innerNode (some c) (some d) w) with pstack := ps } := by
  rw [attach, hs]
  simp [hi, innerNode]

theorem attach_pstack_subset (i : Fin 511) (s : State) : (attach i s).pstack ⊆ s.pstack := by
  unfold attach
  split
  · exact List.Subset.refl _
  · next p rest hs =>
    split
    · exact List.Subset.refl _
    · rw [hs]
      exact List.subset_cons_self p rest

/-- What reading a serialised tree from record `i` on does: the tree's records are written and attached, and its
symbols are seen. -/
structure Parsed (i : Fin 511) (tree : Tree) (s u : State) : Prop where
  next : u.next.val = i.val + tree.records
  stack : u.pstack = (attach i s).pstack
  seen : ∀ x, symGet u.seen x = true ↔ symGet s.seen x = true ∨ x ∈ leafSymbols tree
  tree : PreorderAt u.node i tree
  before : ∀ j, j < i → u.node[j] = (attach i s).node[j]

/-- What is left to read after a whole subtree: nothing if no parent waits for a child. -/
def readRest (q : Bits) (u : State) : Option (Arena × Bits) :=
  if u.pstack = [] then some (u.node, q) else readTree q .tag u

theorem withLeaf_eq (hnode : u.node = s.node) (hstack : u.pstack = s.pstack) (h : i ∉ s.pstack) (x : Byte) :
    withLeaf i x u = { u with
      node := ((attach i s).setNode i (leafNode x 0)).node
      pstack := (attach i s).pstack
      seen := symPut u.seen x true } := by
  have hattach := attach_setNode (s := u) (hstack ▸ h) (leafNode x 0)
  rw [attach_congr hnode hstack] at hattach
  rw [withLeaf, hattach]
  rfl

theorem withInner_eq (h : i ∉ s.pstack) :
    withInner i s = { s with
      node := ((attach i s).setNode i (innerNode none none 0)).node
      next := s.next + 1
      pstack := i :: (attach i s).pstack } := by
  rw [withInner, attach_setNode h]
  rfl

theorem readTree_ser_leaf {x : Byte} (hnext : s.next.val = i.val) (hstack : ∀ p ∈ s.pstack, p < i)
    (hseen : symGet s.seen x = false) (q : Bits) :
    ∃ u, Parsed i (.leaf x) s u ∧ readTree (ser (.leaf x) ++ q) .tag s = readRest q u := by
  have hnot : i ∉ s.pstack := fun h => lt_irrefl i (hstack i h)
  have heq := withLeaf_eq (u := { s with next := s.next + 1 }) (s := s) rfl rfl hnot x
  refine ⟨withLeaf i x { s with next := s.next + 1 }, ⟨?next, ?stack, ?seen, ?tree, ?before⟩, ?read⟩
  case next => exact (Fin.val_add_one_of_lt' (by omega)).trans (congrArg (· + 1) hnext)
  case stack => rw [heq]
  case seen =>
    intro y
    rw [heq, symGet_symPut, leafSymbols, List.mem_singleton]
    by_cases hy : y = x <;> simp [hy]
  case tree =>
    rw [heq]
    exact (setNode_get i i _).trans (if_pos rfl)
  case before =>
    intro j hj
    rw [heq]
    exact (setNode_get i j _).trans (if_neg (ne_of_gt hj))
  case read =>
    have hzero : (0 : Byte) = x >>> (7 + 1) := (BitVec.ushiftRight_eq_zero (by decide)).symm
    change readTree (true :: (bin (7 + 1) x.toNat ++ q)) .tag s = _
    rw [readTree_cons, headerBit_tag, tagBit_leaf hnext, HeaderStep.thenRead, hzero, readTree_symbolBits x rfl,
      leafRead_new (s := { s with next := s.next + 1 }) hseen, readRest]
    split <;> rfl

theorem withInner_self (hnot : i ∉ s.pstack) : (withInner i s).node[i] = innerNode none none 0 := by
  rw [withInner_eq hnot]
  exact (setNode_get i i _).trans (if_pos rfl)

theorem withInner_get (hnot : i ∉ s.pstack) (hne : i ≠ j) : (withInner i s).node[j] = (attach i s).node[j] := by
  rw [withInner_eq hnot]
  exact (setNode_get i j _).trans (if_neg hne)

theorem withInner_stack (hnot : i ∉ s.pstack) : (withInner i s).pstack = i :: (attach i s).pstack := by
  rw [withInner_eq hnot]

/-- The first child of a new internal node leaves it on PSTACK. -/
theorem Parsed.stack_left {l : Tree} {c : Fin 511} (hnot : i ∉ s.pstack) (h : Parsed c l (withInner i s) u) :
    u.pstack = i :: (attach i s).pstack := by
  rw [h.stack, attach_left (withInner_stack hnot) (withInner_self hnot)]
  exact withInner_stack hnot

/-- An internal node's tag, its left subtree and its right subtree are the node's subtree. -/
theorem Parsed.node {l r : Tree} {c d : Fin 511} (hnot : i ∉ s.pstack) (hc : c.val = i.val + 1)
    (hd : d.val = i.val + 1 + l.records) (hleft : Parsed c l (withInner i s) u) (hright : Parsed d r u t) :
    Parsed i (.node l r) s t := by
  have hcd : c < d := Fin.lt_def.mpr (by have := records_pos l; omega)
  have hic : i < c := Fin.lt_def.mpr (by omega)
  have hid : i < d := hic.trans hcd
  have hattachl := attach_left (c := c) (withInner_stack hnot) (withInner_self hnot)
  have hui : u.node[i] = innerNode (some c) none 0 := by
    rw [hleft.before i hic, hattachl, setNode_get, if_pos rfl]
  have hattachr := attach_right (d := d) (hleft.stack_left hnot) hui
  have htold {j : Fin 511} (hj : j < d) (hne : i ≠ j) : t.node[j] = u.node[j] := by
    rw [hright.before j hj, hattachr]
    exact (setNode_get i j _).trans (if_neg hne)
  refine ⟨?next, ?stack, ?seen, ⟨c, d, ?self, hc, hd, ?left, hright.tree⟩, ?before⟩
  case next =>
    have hnext := hright.next
    rw [Tree.records]
    omega
  case stack => rw [hright.stack, hattachr]
  case seen =>
    intro x
    rw [hright.seen, hleft.seen, leafSymbols, List.mem_append, or_assoc]
    rfl
  case self =>
    rw [hright.before i hid, hattachr]
    exact (setNode_get i i _).trans (if_pos rfl)
  case left =>
    refine hleft.tree.congr fun j hj hlt => htold (Fin.lt_def.mpr (by omega)) (ne_of_lt (hic.trans_le hj))
  case before =>
    intro j hj
    rw [htold (hj.trans hid) (ne_of_gt hj), hleft.before j (hj.trans hic), hattachl, setNode_get,
      if_neg (ne_of_gt hj), withInner_get hnot (ne_of_gt hj)]

/-- By induction on the tree: an inner record, then its left and its right subtree (R337). -/
theorem readTree_ser (hnext : s.next.val = i.val) (hroom : i.val + tree.records ≤ 511)
    (hstack : ∀ p ∈ s.pstack, p < i) (hseen : ∀ x ∈ leafSymbols tree, symGet s.seen x = false)
    (hnodup : (leafSymbols tree).Nodup) (q : Bits) :
    ∃ u, Parsed i tree s u ∧ readTree (ser tree ++ q) .tag s = readRest q u := by
  induction tree generalizing s i q with
  | leaf x => exact readTree_ser_leaf hnext hstack (hseen x (by simp [leafSymbols])) q
  | node l r ihl ihr =>
    have hrec : (Tree.node l r).records = l.records + r.records + 1 := rfl
    have hl := records_pos l
    have hr := records_pos r
    have hnot : i ∉ s.pstack := fun h => lt_irrefl i (hstack i h)
    simp only [leafSymbols, List.mem_append] at hseen
    rw [leafSymbols, List.nodup_append] at hnodup
    obtain ⟨hnodupl, hnodupr, hdisjoint⟩ := hnodup
    obtain ⟨c, hc⟩ : ∃ c : Fin 511, c.val = i.val + 1 := ⟨⟨i.val + 1, by omega⟩, rfl⟩
    obtain ⟨d, hd⟩ : ∃ d : Fin 511, d.val = i.val + 1 + l.records := ⟨⟨i.val + 1 + l.records, by omega⟩, rfl⟩
    have hafter : ∀ p ∈ i :: (attach i s).pstack, p ≤ i := by
      rintro p hp
      obtain rfl | hp := List.mem_cons.mp hp
      · exact le_rfl
      · exact (hstack p (attach_pstack_subset i s hp)).le
    have hic : i < c := Fin.lt_def.mpr (by omega)
    have hid : i < d := Fin.lt_def.mpr (by omega)
    obtain ⟨u, hleft, hreadl⟩ := ihl (s := withInner i s) (i := c)
      ((Fin.val_add_one_of_lt' (by omega)).trans (by omega)) (by omega)
      (fun p hp => (hafter p (withInner_stack hnot ▸ hp)).trans_lt hic) (fun x hx => hseen x (.inl hx)) hnodupl
      (ser r ++ q)
    have hstackl := hleft.stack_left hnot
    have hseenr (x : Byte) (hx : x ∈ leafSymbols r) : symGet u.seen x = false := by
      rw [Bool.eq_false_iff, Ne, hleft.seen]
      rintro (hs | hl)
      · exact Bool.false_ne_true ((hseen x (.inr hx)).symm.trans hs)
      · exact hdisjoint x hl x hx rfl
    obtain ⟨t, hright, hreadr⟩ := ihr (s := u) (i := d) (hleft.next.trans (by omega)) (by omega)
      (fun p hp => (hafter p (hstackl ▸ hp)).trans_lt hid) hseenr hnodupr q
    refine ⟨t, hleft.node hnot hc hd hright, ?_⟩
    have hmore : ¬u.pstack = [] := by rw [hstackl]; exact List.cons_ne_nil _ _
    calc readTree (ser (.node l r) ++ q) .tag s
        = readTree (false :: (ser l ++ (ser r ++ q))) .tag s := by rw [ser, List.cons_append, List.append_assoc]
      _ = readTree (ser l ++ (ser r ++ q)) .tag (withInner i s) := by
        rw [readTree_cons, headerBit_tag, tagBit_inner hnext]
        rfl
      _ = readRest q t := by rw [hreadl, readRest, if_neg hmore, hreadr]

/-! ### The tree field byte by byte (R333) -/

/-- The bits left of a byte complete the tree, or the rest of the bit string does. -/
theorem headerBits_of_readTree {n : Nat} (h : readTree (bin n s.dbyte.toNat ++ p) pos s = some (a, q)) :
    (∃ u, headerBits n pos s = startStreaming u ∧ u.root = some 0 ∧ u.node = a ∧ p.length ≤ q.length) ∨
    ∃ pos' u, headerBits n pos s = goto (.decTree pos') u ∧ readTree p pos' u = some (a, q) ∧ u.busy = s.busy := by
  induction n generalizing pos s with
  | zero => exact .inr ⟨pos, s, rfl, h, rfl⟩
  | succ n ih =>
    have hframe : readTree (s.dbyte.getLsbD n :: (bin n s.dbyte.toNat ++ p)) pos { s with dbits := BitVec.ofNat 4 n } =
        some (a, q) := readTree_congr h rfl rfl rfl rfl
    rw [readTree_cons] at hframe
    rw [headerBits]
    cases hstep : headerBit (s.dbyte.getLsbD n) pos { s with dbits := BitVec.ofNat 4 n } with
    | more pos' t =>
      have hbyte : t.dbyte = s.dbyte := (congrArg State.dbyte (headerBit_more_frame hstep) :)
      have hbusy : t.busy = s.busy := (congrArg State.busy (headerBit_more_frame hstep) :)
      rw [hstep] at hframe
      exact hbusy ▸ ih (hbyte ▸ hframe)
    | complete t =>
      rw [hstep] at hframe
      obtain ⟨rfl, rfl⟩ : t.node = a ∧ bin n s.dbyte.toNat ++ p = q := by
        simpa [HeaderStep.thenRead] using hframe
      exact .inl ⟨t, rfl, (congrArg State.root (headerBit_complete_frame hstep) :), rfl, by simp⟩
    | malformed t =>
      rw [hstep] at hframe
      cases hframe

/-- All that the tree phase can change. -/
def TreePhaseFrame (s t : State) : Prop :=
  t = { s with
    node := t.node, pstack := t.pstack, next := t.next, seen := t.seen, root := t.root, dbyte := t.dbyte,
    dbits := t.dbits, inFifo := t.inFifo, treeValid := t.treeValid, dstate := t.dstate, walk := t.walk, err := t.err,
    errcode := t.errcode, busy := t.busy, point := t.point }

theorem TreePhaseFrame.trans (h : TreePhaseFrame s t) (h' : TreePhaseFrame t u) : TreePhaseFrame s u := by
  unfold TreePhaseFrame at h h' ⊢
  rw [h', h]

theorem headerBits_popByte (b : Byte) (rest : List Token) (pos : TreePos) (s : State) :
    TreePhaseFrame s (headerBits 8 pos (popByte b rest s)) ∧ (headerBits 8 pos (popByte b rest s)).inFifo = rest := by
  obtain ⟨_, _, _, _, _, _, _, _, _, _, _, _, _, e, -⟩ := headerBits_frame 8 pos (popByte b rest s)
  rw [e]
  exact ⟨rfl, rfl⟩

/-- DECODE streams bits with the tree in `a`, the tokens `rest` left. -/
structure Streaming (a : Arena) (rest : List Token) (t : State) : Prop where
  inFifo : t.inFifo = rest
  treeValid : t.treeValid = true
  dstate : t.dstate = .streamingBits
  root : t.root = some 0
  walk : t.walk = none
  node : t.node = a

theorem startStreaming_streaming (hin : (startStreaming u).inFifo = rest) (hroot : u.root = some 0) :
    Streaming u.node rest (startStreaming u) := by
  obtain ⟨p, -, he⟩ := startStreaming_eq u
  rw [he] at hin ⊢
  exact ⟨hin, rfl, rfl, hroot, rfl, rfl⟩

theorem run_succ {k : Nat} (h : step s = .next t) :
    Host.Core.run Sys2Proof.core (k + 1) s = Host.Core.run Sys2Proof.core k t := by
  have hstep : Sys2Proof.core.step s = .next t := h
  exact (Host.Core.run.eq_2 ..).trans (by rw [hstep])

/-- As many steps as there are bytes read the tree field, when it ends inside the last byte. -/
theorem run_readTree {bytes : List Byte} (hrun : Runs .decode s) (hsched : s.sched = []) (hp : s.point = .decTree pos)
    (hin : s.inFifo = bytes.map .data ++ rest) (hread : readTree (Claims.bitsOf bytes) pos s = some (a, q))
    (hq : q.length < 8) :
    ∃ t, Host.Core.run Sys2Proof.core bytes.length s = .next t ∧ Streaming a rest t ∧ TreePhaseFrame s t := by
  induction bytes generalizing s pos with
  | nil => cases hread
  | cons b bytes ih =>
    have hexec := exec_treeByte (rest := bytes.map Token.data ++ rest) hrun.1 hp hin
    have hstep := (step_nil hsched).trans ((engineTurn_runs hrun).trans hexec)
    obtain ⟨hframe, hfifo⟩ := headerBits_popByte b (bytes.map .data ++ rest) pos s
    have hbyte : readTree (bin 8 b.toNat ++ Claims.bitsOf bytes) pos (popByte b (bytes.map .data ++ rest) s) =
        some (a, q) := readTree_congr hread rfl rfl rfl rfl
    rw [List.length_cons, run_succ hstep]
    obtain ⟨u, hu, hroot, rfl, hlen⟩ | ⟨pos', u, hu, hrest, hbusy⟩ :=
      headerBits_of_readTree (s := popByte b _ s) hbyte
    · rw [bitsOf_length] at hlen
      obtain rfl : bytes = [] := List.eq_nil_of_length_eq_zero (by omega)
      exact ⟨_, rfl, hu ▸ startStreaming_streaming (hu ▸ hfifo) hroot, hframe⟩
    · rw [hu] at hframe hfifo hexec ⊢
      have hruns : Runs .decode (goto (.decTree pos') u) :=
        ⟨hbusy.trans hrun.1, (exec_keeps_latches hrun.1 hexec) ▸ hrun.2⟩
      have hsched' : (goto (.decTree pos') u).sched = [] := (congrArg State.sched hframe).trans hsched
      have hread' : readTree (Claims.bitsOf bytes) pos' (goto (.decTree pos') u) = some (a, q) :=
        readTree_congr hrest rfl rfl rfl rfl
      obtain ⟨t, ht, hstream, hframe'⟩ := ih hruns hsched' rfl hfifo hread'
      exact ⟨t, ht, hstream, hframe.trans hframe'⟩

end Sys2Proof.Machine

namespace Sys2Proof.Proofs

open Sys2Proof.Machine

/-- Settles O32: the serialised tree is read record by record in pre-order, by induction on the tree, and its last bit
lies in the last byte, by induction on the bytes. -/
theorem decodeRebuildsTheSerialisedTree : Obligations.DecodeRebuildsTheSerialisedTree := by
  intro tree s rest hrun hsched hp hnext hstack hseen hnodup hin
  have hrec := records_eq tree
  have hsize : (leafSymbols tree).length ≤ 256 := by
    simpa [allSymbols] using (hnodup.subperm fun x _ => mem_allSymbols x).length_le
  have hpad : ((List.replicate ((8 - (ser tree).length % 8) % 8) false : Bits)).length < 8 := by
    rw [List.length_replicate]; omega
  obtain ⟨u, hparsed, hread⟩ := readTree_ser (s := s) (i := 0) (tree := tree) (congrArg Fin.val hnext)
    (by simp only [Fin.val_zero]; omega) (by simp [hstack]) (fun x _ => hseen x) hnodup
    (List.replicate ((8 - (ser tree).length % 8) % 8) false)
  have hdone : u.pstack = [] := by rw [hparsed.stack, attach, hstack]; exact hstack
  rw [readRest, if_pos hdone] at hread
  rw [← padByte, ← bitsOf_toBytes (padByte_length _)] at hread
  obtain ⟨t, hrun', hstream, hframe⟩ := run_readTree hrun hsched hp hin hread hpad
  obtain ⟨hfifo, hvalid, hdstate, hroot, hwalk, hnode⟩ := hstream
  refine ⟨t, hrun', hfifo, hvalid, hdstate, hroot, (cur_noWalk t hwalk).trans hroot, ?_, ?_⟩
  · rw [hnode]
    exact hparsed.tree.treeAt (show tree.records ≤ 511 by omega)
  · exact ⟨(congrArg State.freq hframe :), (congrArg State.total hframe :), (congrArg State.nsym hframe :),
      (congrArg State.code hframe :), (congrArg State.dcount hframe :), (congrArg State.outFifo hframe :)⟩

end Sys2Proof.Proofs
end

section
/-! PROOFS. 44_decoder.md R336 (d), R337: every step keeps the symbols of a valid tree's leaves distinct. -/

namespace Sys2Proof.Machine

variable {s t u : State} {c : Instr} {pos : TreePos} {a : Arena} {m : Nat} {i j k : Fin 511} {tree : Tree}

/-! ### A tree whose records are children once -/

/-- Record `p` is an internal record among the first `m`, and `k` is its child. -/
def ParentIn (a : Arena) (m : Nat) (k p : Fin 511) : Prop :=
  p.val < m ∧ (a[p]).leaf = false ∧ IsChild a p k

/-- The first `m` records of an arena that make a tree with distinct leaf symbols: children are later records, no
record is a child twice, and no two leaves have one symbol. -/
structure DistinctRecords (a : Arena) (m : Nat) : Prop where
  later : ∀ k p, ParentIn a m k p → p < k ∧ k.val < m
  once : ChildrenOnce a m
  symbols : ∀ i j : Fin 511, i.val < m → j.val < m → (a[i]).leaf = true → (a[j]).leaf = true →
    (a[i]).sym = (a[j]).sym → i = j

theorem ChildrenOnce.parent_unique (h : ChildrenOnce a m) : Relator.RightUnique (ParentIn a m) :=
  fun k i j ⟨hi, hli, hki⟩ ⟨hj, hlj, hkj⟩ => (h i j k hi hj hli hlj hki hkj).1

/-- A leaf of the tree below a record is reached from that record. -/
theorem exists_leaf_of_mem (h : DistinctRecords a m) (hi : i.val < m) (ht : wholeTree a i = some tree) {x : Byte}
    (hx : x ∈ leafSymbols tree) :
    ∃ j : Fin 511, j.val < m ∧ (a[j]).leaf = true ∧ (a[j]).sym = x ∧
      Relation.ReflTransGen (ParentIn a m) j i := by
  induction tree generalizing i with
  | leaf y =>
    obtain ⟨-, ⟨hl, e⟩ | ⟨-, l, r, tl, tr, -, -, -, -, e⟩⟩ := wholeTree_cases ht
    · cases e
      exact ⟨i, hi, hl, (List.mem_singleton.mp hx).symm, .refl⟩
    · cases e
  | node tl tr ihl ihr =>
    obtain ⟨-, ⟨-, e⟩ | ⟨hn, l, r, tl, tr, el, er, htl, htr, e⟩⟩ := wholeTree_cases ht <;> cases e
    have hl : ParentIn a m l i := ⟨hi, hn, .inl el⟩
    have hr : ParentIn a m r i := ⟨hi, hn, .inr er⟩
    obtain hx | hx := List.mem_append.mp hx
    · obtain ⟨j, hj, hleaf, hsym, hreach⟩ := ihl (h.later l i hl).2 htl hx
      exact ⟨j, hj, hleaf, hsym, hreach.tail hl⟩
    · obtain ⟨j, hj, hleaf, hsym, hreach⟩ := ihr (h.later r i hr).2 htr hx
      exact ⟨j, hj, hleaf, hsym, hreach.tail hr⟩

theorem le_of_reach (h : DistinctRecords a m) (hreach : Relation.ReflTransGen (ParentIn a m) j i) : i ≤ j := by
  induction hreach with
  | refl => exact le_rfl
  | tail _ hp ih => exact (h.later _ _ hp).1.le.trans ih

/-- One child of a record is not reached from another. -/
theorem not_reach_sibling (h : DistinctRecords a m) (hi : ParentIn a m i k) (hj : ParentIn a m j k) (hne : i ≠ j) :
    ¬Relation.ReflTransGen (ParentIn a m) i j := by
  intro hreach
  obtain rfl | ⟨p, hp, hreach⟩ := hreach.cases_head
  · exact hne rfl
  · obtain rfl := h.once.parent_unique hp hi
    exact absurd (le_of_reach h hreach) (not_le_of_gt (h.later _ _ hj).1)

theorem DistinctRecords.nodup (h : DistinctRecords a m) (hi : i.val < m) (ht : wholeTree a i = some tree) :
    (leafSymbols tree).Nodup := by
  induction tree generalizing i with
  | leaf x => exact List.nodup_singleton x
  | node tl tr ihl ihr =>
    obtain ⟨-, ⟨-, e⟩ | ⟨hn, l, r, tl, tr, el, er, htl, htr, e⟩⟩ := wholeTree_cases ht <;> cases e
    have hl : ParentIn a m l i := ⟨hi, hn, .inl el⟩
    have hr : ParentIn a m r i := ⟨hi, hn, .inr er⟩
    have hne : l ≠ r := by
      rintro rfl
      exact (h.once i i l hi hi hn hn hl.2.2 hr.2.2).2 ⟨el, er⟩
    have hlm := (h.later l i hl).2
    have hrm := (h.later r i hr).2
    refine List.nodup_append.mpr ⟨ihl hlm htl, ihr hrm htr, fun x hxl y hxr hxy => ?_⟩
    obtain ⟨j, hj, hleaf, hsym, hreachl⟩ := exists_leaf_of_mem h hlm htl hxl
    obtain ⟨j', hj', hleaf', hsym', hreachr⟩ := exists_leaf_of_mem h hrm htr hxr
    obtain rfl := h.symbols j j' hj hj' hleaf hleaf' (hsym.trans (hxy.trans hsym'.symm))
    obtain hlr | hrl := hreachl.total_of_right_unique h.once.parent_unique hreachr
    · exact not_reach_sibling h hl hr hne hlr
    · exact not_reach_sibling h hr hl hne.symm hrl

/-! ### The records of a header (R335) -/

/-- The labels of the first `m` records of a header: no record is a child twice, and the leaves name distinct symbols,
all in SEEN. -/
structure HeaderLabels (s : State) (m : Nat) : Prop where
  once : ChildrenOnce s.node m
  seen : ∀ i : Fin 511, i.val < m → (s.node[i]).leaf = true → symGet s.seen (s.node[i]).sym = true
  symbols : ∀ i j : Fin 511, i.val < m → j.val < m → (s.node[i]).leaf = true → (s.node[j]).leaf = true →
    (s.node[i]).sym = (s.node[j]).sym → i = j

theorem HeaderLabels.congr (h : HeaderLabels s m) (hnode : u.node = s.node) (hseen : u.seen = s.seen) :
    HeaderLabels u m :=
  ⟨hnode ▸ h.once, hnode ▸ hseen ▸ h.seen, hnode ▸ h.symbols⟩

/-- Before a tag the written records are those below NEXT. -/
theorem HeaderLabels.before_tag (h : HeaderLabels s m) (hnext : s.next.val = m) :
    HeaderLabels s (writtenAt s .tag) := by
  rw [writtenAt, hnext]
  exact h

theorem headerLabels_zero (s : State) : HeaderLabels s 0 :=
  ⟨fun _ _ _ hi => absurd hi (Nat.not_lt_zero _), fun _ hi => absurd hi (Nat.not_lt_zero _),
    fun _ _ hi => absurd hi (Nat.not_lt_zero _)⟩

/-- The children of written records are later written records. -/
theorem Written.later (hw : Written s m) (h : ParentIn s.node m k j) : j < k ∧ k.val < m := by
  obtain ⟨hj, hn, hk⟩ := h
  obtain ⟨-, ⟨hl, -⟩ | ⟨-, -, hright, hleft⟩ | ⟨-, -, l, r, el, er, hjl, hlm, hjr, hrm⟩⟩ := hw.records j hj
  · exact absurd (hn.symm.trans hl) Bool.false_ne_true
  · obtain hk | hk := hk
    · exact hleft k hk
    · exact nomatch hright.symm.trans hk
  · obtain hk | hk := hk
    · obtain rfl := Option.some.inj (el.symm.trans hk)
      exact ⟨hjl, hlm⟩
    · obtain rfl := Option.some.inj (er.symm.trans hk)
      exact ⟨hjr, hrm⟩

theorem HeaderLabels.distinctRecords (h : HeaderLabels s m) (hw : Written s m) : DistinctRecords s.node m :=
  ⟨fun _ _ hk => hw.later hk, h.once, h.symbols⟩

/-! ### Attaching a record -/

/-- What becomes of an earlier record when record `i` is attached: it stays, or, on top of PSTACK, it gets `i` as its
LEFT, if that was free, or else as its RIGHT. -/
theorem attach_get (i : Fin 511) (s : State) (j : Fin 511) :
    (attach i s).node[j] = s.node[j] ∨
    s.pstack.head? = some j ∧
      ((s.node[j]).left = none ∧ (attach i s).node[j] = { s.node[j] with left := some i } ∨
       (s.node[j]).left ≠ none ∧ (attach i s).node[j] = { s.node[j] with right := some i }) := by
  cases hstack : s.pstack with
  | nil => rw [attach, hstack]; exact .inl rfl
  | cons p rest =>
    by_cases hjp : p = j
    · subst hjp
      refine .inr ⟨rfl, ?_⟩
      obtain ⟨hl, he⟩ | ⟨⟨c, hl⟩, he⟩ := attach_cons (i := i) hstack
      · exact .inl ⟨hl, by rw [he, setNode_get, if_pos rfl]⟩
      · refine .inr ⟨by rw [hl]; exact Option.some_ne_none c, ?_⟩
        rw [he]
        exact (setNode_get p p _).trans (if_pos rfl)
    · left
      obtain ⟨-, he⟩ | ⟨-, he⟩ := attach_cons (i := i) hstack <;> rw [he]
      · rw [setNode_get, if_neg hjp]
      · exact (setNode_get p j _).trans (if_neg hjp)

/-- An earlier record stays the leaf or the internal record it was. -/
theorem attach_get_leaf (i : Fin 511) (s : State) (j : Fin 511) :
    ((attach i s).node[j]).leaf = (s.node[j]).leaf ∧ ((attach i s).node[j]).sym = (s.node[j]).sym := by
  obtain e | ⟨-, ⟨-, e⟩ | ⟨-, e⟩⟩ := attach_get i s j <;> rw [e] <;> exact ⟨rfl, rfl⟩

section
variable {n : Node} (hw : Written s i.val) (hl : n.left = none) (hr : n.right = none)
  (hnode : u.node = (attach i (s.setNode i n)).node)
include hw hnode

theorem Written.attach_self : u.node[i] = n := by
  rw [hnode]
  exact (hw.attached n).record

theorem Written.attach_old (hj : j < i) : u.node[j] = (attach i s).node[j] := by
  have hnot : i ∉ s.pstack := fun h => lt_irrefl _ (hw.stack i h)
  rw [hnode, attach_setNode hnot, setNode_get, if_neg (ne_of_gt hj)]

theorem Written.leaf_cases (hj : j.val < i.val + 1) (h : (u.node[j]).leaf = true) :
    (j.val < i.val ∧ (s.node[j]).leaf = true ∧ (u.node[j]).sym = (s.node[j]).sym) ∨
    (j = i ∧ n.leaf = true ∧ (u.node[j]).sym = n.sym) := by
  obtain hlt | heq := Nat.lt_succ_iff_lt_or_eq.mp hj
  · obtain ⟨hleaf, hsym⟩ := attach_get_leaf i s j
    rw [hw.attach_old hnode (j := j) hlt] at h ⊢
    exact .inl ⟨hlt, hleaf.symm.trans h, hsym⟩
  · obtain rfl := Fin.ext heq
    rw [hw.attach_self hnode] at h ⊢
    exact .inr ⟨rfl, h, rfl⟩

include hl hr

/-- The parents after record `i` is attached are the parents before, and the top of PSTACK for `i`. -/
theorem Written.parentIn_cases (h : ParentIn u.node (i.val + 1) k j) :
    ParentIn s.node i.val k j ∨ k = i ∧ s.pstack.head? = some j := by
  obtain ⟨hj, hn, hk⟩ := h
  obtain hlt | heq := Nat.lt_succ_iff_lt_or_eq.mp hj
  · have hold := hw.attach_old hnode (j := j) hlt
    rw [IsChild, hold] at hk
    rw [hold] at hn
    have hn := (attach_get_leaf i s j).1.symm.trans hn
    obtain e | ⟨hhead, ⟨hleft, e⟩ | ⟨hleft, e⟩⟩ := attach_get i s j <;> rw [e] at hk
    · exact .inl ⟨hlt, hn, hk⟩
    · obtain hk | hk := hk
      · exact .inr ⟨(Option.some.inj hk).symm, hhead⟩
      · exact .inl ⟨hlt, hn, .inr hk⟩
    · obtain hk | hk := hk
      · exact .inl ⟨hlt, hn, .inl hk⟩
      · exact .inr ⟨(Option.some.inj hk).symm, hhead⟩
  · obtain rfl := Fin.ext heq
    rw [IsChild, hw.attach_self hnode, hl, hr] at hk
    obtain hk | hk := hk <;> cases hk

theorem Written.childrenOnce_attach (h : ChildrenOnce s.node i.val) : ChildrenOnce u.node (i.val + 1) := by
  intro x y c hx hy hlx hly hcx hcy
  have hearlier {p : Fin 511} : ¬ParentIn s.node i.val i p := fun hp => lt_irrefl _ (hw.later hp).2
  have hpx := hw.parentIn_cases hl hr hnode ⟨hx, hlx, hcx⟩
  have hpy := hw.parentIn_cases hl hr hnode ⟨hy, hly, hcy⟩
  refine ⟨?same, ?apart⟩
  case same =>
    obtain hpx | ⟨rfl, hheadx⟩ := hpx <;> obtain hpy | ⟨e, hheady⟩ := hpy
    · exact h.parent_unique hpx hpy
    · exact absurd (e ▸ hpx) hearlier
    · exact absurd hpy hearlier
    · exact Option.some.inj (hheadx.symm.trans hheady)
  case apart =>
    rintro ⟨hleft, hright⟩
    obtain hlt | heq := Nat.lt_succ_iff_lt_or_eq.mp hx
    · have hold := hw.attach_old hnode (j := x) hlt
      rw [hold] at hleft hright hlx
      have hn := (attach_get_leaf i s x).1.symm.trans hlx
      obtain e | ⟨-, ⟨-, e⟩ | ⟨-, e⟩⟩ := attach_get i s x <;> rw [e] at hleft hright
      · exact (h x x c hlt hlt hn hn (.inl hleft) (.inl hleft)).2 ⟨hleft, hright⟩
      · exact hearlier ⟨hlt, hn, .inr (hright.trans hleft.symm)⟩
      · exact hearlier ⟨hlt, hn, .inl (hleft.trans hright.symm)⟩
    · obtain rfl := Fin.ext heq
      rw [hw.attach_self hnode, hl] at hleft
      cases hleft

/-- Attaching an internal node keeps the labels. -/
theorem Written.headerLabels_inner (h : HeaderLabels s i.val) (hn : n.leaf = false) (hseen : u.seen = s.seen) :
    HeaderLabels u (i.val + 1) := by
  have hold {j : Fin 511} (hj : j.val < i.val + 1) (hleaf : (u.node[j]).leaf = true) :
      j.val < i.val ∧ (s.node[j]).leaf = true ∧ (u.node[j]).sym = (s.node[j]).sym :=
    (hw.leaf_cases hnode hj hleaf).resolve_right fun ⟨_, hleaf, _⟩ => Bool.false_ne_true (hn.symm.trans hleaf)
  refine ⟨hw.childrenOnce_attach hl hr hnode h.once, fun j hj hleaf => ?_, fun j k hj hk hlj hlk hsym => ?_⟩
  · obtain ⟨hj, hleaf, e⟩ := hold hj hleaf
    rw [e, hseen]
    exact h.seen j hj hleaf
  · obtain ⟨hj, hlj, ej⟩ := hold hj hlj
    obtain ⟨hk, hlk, ek⟩ := hold hk hlk
    exact h.symbols j k hj hk hlj hlk (ej.symm.trans (hsym.trans ek))

/-- Attaching a leaf of a new symbol keeps the labels. -/
theorem Written.headerLabels_leaf (h : HeaderLabels s i.val) (hnew : symGet s.seen n.sym = false)
    (hseen : u.seen = symPut s.seen n.sym true) : HeaderLabels u (i.val + 1) := by
  have hother {j : Fin 511} (hj : j.val < i.val) (hleaf : (s.node[j]).leaf = true) : (s.node[j]).sym ≠ n.sym :=
    fun e => Bool.false_ne_true (hnew.symm.trans (e ▸ h.seen j hj hleaf))
  refine ⟨hw.childrenOnce_attach hl hr hnode h.once, fun j hj hleaf => ?_, fun j k hj hk hlj hlk hsym => ?_⟩
  · rw [hseen]
    obtain ⟨hj, hleaf, e⟩ | ⟨-, -, e⟩ := hw.leaf_cases hnode hj hleaf <;> rw [e]
    · rw [symGet_symPut_ne _ _ (hother hj hleaf)]
      exact h.seen j hj hleaf
    · exact symGet_symPut_self ..
  · obtain ⟨hj, hlj, ej⟩ | ⟨rfl, -, ej⟩ := hw.leaf_cases hnode hj hlj <;>
      obtain ⟨hk, hlk, ek⟩ | ⟨rfl, -, ek⟩ := hw.leaf_cases hnode hk hlk <;>
      replace hsym := ej.symm.trans (hsym.trans ek)
    · exact h.symbols j k hj hk hlj hlk hsym
    · exact absurd hsym (hother hj hlj)
    · exact absurd hsym.symm (hother hk hlk)
    · rfl

end

/-! ### One header bit (R335) -/

/-- A tree at ROOT has distinct leaf symbols. -/
def DistinctLeaves (s : State) : Prop :=
  ∀ r tree, s.root = some r → wholeTree s.node r = some tree → (leafSymbols tree).Nodup

/-- What a header step must leave of the labels. -/
def HeaderStep.Labelled (h : HeaderStep) : Prop :=
  match h with
  | .more pos s => HeaderLabels s (writtenAt s pos)
  | .complete s => DistinctLeaves s
  | .malformed _ => True

theorem headerBit_labelled (b : Bool) (htree : PartialTree s pos) (h : HeaderLabels s (writtenAt s pos)) :
    (headerBit b pos s).Labelled := by
  obtain ⟨hnext, hw⟩ := partialTree_iff.mp htree
  have hc := headerBit_cases b pos s
  generalize headerBit b pos s = step at hc ⊢
  cases hc with
  | malformed => trivial
  | leafTag i hpos hi =>
    subst hpos
    have h : HeaderLabels s i.val := hi ▸ h
    exact h.congr rfl rfl
  | innerTag i hpos hi _ =>
    subst hpos
    have hw : Written s i.val := hi ▸ hw
    have hlabels : HeaderLabels (withInner i s) (i.val + 1) :=
      hw.headerLabels_inner (n := innerNode none none 0) rfl rfl rfl (hi ▸ h) rfl rfl
    have hnext : (withInner i s).next.val = i.val + 1 :=
      (Fin.val_add_one_of_lt' (by omega)).trans (congrArg (· + 1) hi)
    exact hlabels.before_tag hnext
  | symbolBit i m acc acc' hpos =>
    subst hpos
    exact h
  | leaf i acc hpos hseen hmore =>
    subst hpos
    have hlabels : HeaderLabels (withLeaf i (lastSymbol acc b) s) (i.val + 1) :=
      hw.headerLabels_leaf (n := leafNode _ 0) rfl rfl rfl h hseen rfl
    exact hlabels.before_tag (hnext i 7 acc rfl)
  | lastLeaf i acc hpos hseen hempty =>
    subst hpos
    have hlabels : HeaderLabels (withLeaf i (lastSymbol acc b) s) (i.val + 1) :=
      hw.headerLabels_leaf (n := leafNode _ 0) rfl rfl rfl h hseen rfl
    have hwritten : Written (withLeaf i (lastSymbol acc b) s) (i.val + 1) :=
      (hw.attached (leafNode (lastSymbol acc b) 0)).leaf.congr rfl rfl
    intro r tree hr
    cases hr
    exact (hlabels.distinctRecords hwritten).nodup (Nat.succ_pos _)

/-! ### DECODE's micro-steps -/

/-- DECODE's part of the leaf-symbol invariant. -/
structure DecodeLabels (s : State) : Prop where
  valid : s.treeValid = true → DistinctLeaves s
  header : ∀ pos, s.busy = true → s.point = .decTree pos → HeaderLabels s (writtenAt s pos)

/-- Only NODE, ROOT and TREE_VALID matter outside the tree phase. -/
theorem DecodeLabels.leave (h : DecodeLabels s) (hnode : t.node = s.node) (hroot : t.root = s.root)
    (hvalid : t.treeValid = s.treeValid) (hp : ∀ pos, t.busy = true → t.point ≠ .decTree pos) : DecodeLabels t :=
  ⟨fun hv r tree hr ht => h.valid (hvalid ▸ hv) r tree (hroot ▸ hr) (hnode ▸ ht),
    fun pos hb he => absurd he (hp pos hb)⟩

theorem startStreaming_labels (h : DistinctLeaves s) : DecodeLabels (startStreaming s) := by
  obtain ⟨p, hp, e⟩ := startStreaming_eq s
  rw [e]
  refine ⟨fun _ => h, fun pos _ he => ?_⟩
  obtain rfl | rfl := hp <;> cases he

theorem raiseError_labels (e : HuffError) (h : s.treeValid = true → DistinctLeaves s) :
    DecodeLabels (raiseError e s) :=
  ⟨h, fun _ hb => absurd hb Bool.false_ne_true⟩

theorem distinctLeaves_of_invalid (hvalid : s.treeValid = false) : s.treeValid = true → DistinctLeaves s :=
  fun h => absurd (hvalid.symm.trans h) Bool.false_ne_true

theorem decCountToken_labels (l : Fin 4) (n : Word) (tok : Token) (hvalid : s.treeValid = false) :
    DecodeLabels (decCountToken l n tok s) := by
  have hdistinct := distinctLeaves_of_invalid hvalid
  cases tok with
  | eos => exact raiseError_labels _ hdistinct
  | data b =>
    unfold decCountToken countDone
    dsimp only
    split
    · split
      · exact startStreaming_labels fun r tree hr => nomatch hr
      · exact ⟨distinctLeaves_of_invalid hvalid, fun pos _ hp => by cases hp; exact headerLabels_zero _⟩
    · exact ⟨hdistinct, fun pos _ hp => nomatch hp⟩

theorem headerBits_labels {n : Nat} (htree : PartialTree s pos) (h : HeaderLabels s (writtenAt s pos))
    (hvalid : s.treeValid = false) : DecodeLabels (headerBits n pos s) := by
  induction n generalizing pos s with
  | zero => exact ⟨distinctLeaves_of_invalid hvalid, fun pos' _ hp => by cases hp; exact h.congr rfl rfl⟩
  | succ n ih =>
    have htree' : PartialTree { s with dbits := BitVec.ofNat 4 n } pos := htree.congr rfl rfl rfl
    have hfits := headerBit_fits (s.dbyte.getLsbD n) htree'
    have hlabelled := headerBit_labelled (s.dbyte.getLsbD n) htree' (h.congr rfl rfl)
    rw [headerBits]
    cases hstep : headerBit (s.dbyte.getLsbD n) pos { s with dbits := BitVec.ofNat 4 n } with
    | more pos' t =>
      rw [hstep] at hfits hlabelled
      exact ih hfits hlabelled ((congrArg State.treeValid (headerBit_more_frame hstep)).trans hvalid)
    | complete t =>
      rw [hstep] at hlabelled
      exact startStreaming_labels hlabelled
    | malformed t =>
      obtain ⟨rfl, -⟩ := headerBit_malformed hstep
      exact raiseError_labels _ (distinctLeaves_of_invalid hvalid)

theorem decTreeToken_labels (tok : Token) (htree : PartialTree s pos) (h : HeaderLabels s (writtenAt s pos))
    (hvalid : s.treeValid = false) : DecodeLabels (decTreeToken pos tok s) := by
  cases tok with
  | eos => exact raiseError_labels _ (distinctLeaves_of_invalid hvalid)
  | data b => exact headerBits_labels (htree.congr rfl rfl rfl) (h.congr rfl rfl) hvalid

theorem degenPushed_labels (h : DecodeLabels s) : DecodeLabels (degenPushed s) := by
  unfold degenPushed
  dsimp only
  split <;> exact h.leave rfl rfl rfl nofun

theorem walkBits_labels {n : Nat} (h : DecodeLabels s) (hw : walkBits n s = .next t) : DecodeLabels t := by
  obtain ⟨_, _, _, rfl | rfl, rfl⟩ := walkBits_frame n hw <;> exact h.leave rfl rfl rfl nofun

theorem decTokToken_labels {tok : Token} (hp : s.point = .decTok) (h : DecodeLabels s)
    (ht : decTokToken tok s = .next t) : DecodeLabels t := by
  cases tok with
  | eos => cases ht; exact h.leave rfl rfl rfl nofun
  | data b =>
    simp only [decTokToken] at ht
    split at ht
    · cases ht
      exact h.leave rfl rfl rfl fun _ _ he => nomatch hp.symm.trans he
    · exact walkBits_labels (s := { s with dbyte := b, dbits := 8 })
        (h.leave rfl rfl rfl fun _ _ he => nomatch hp.symm.trans he) ht

theorem decodeBody_labels (hb : s.busy = true) (hs : DecodeSound s) (h : DecodeLabels s) (ht : decodeBody s = .next t) :
    DecodeLabels t := by
  have hat {p : Point} (hp : s.point = p) : DecodePhase p s := hp ▸ hs.phase hb
  obtain rfl | ⟨-, rfl⟩ | ⟨l, n, tok, rest, hp, -, rfl⟩ | ⟨pos, tok, rest, hp, -, rfl⟩ | ⟨hp, r, -, -, rfl⟩ |
    ⟨hp, tok, rest, -, htok⟩ | ⟨hp, c, -, -, hwalk⟩ := decodeBody_cases ht
  · exact h
  · exact h.leave rfl rfl rfl nofun
  · exact decCountToken_labels l n tok (hat hp).1
  · obtain ⟨hvalid, -, -, htree⟩ := hat hp
    exact decTreeToken_labels tok (htree.congr rfl rfl rfl) ((h.header pos hb hp).congr rfl rfl) hvalid
  · exact degenPushed_labels (h.leave rfl rfl rfl fun _ _ he => nomatch hp.symm.trans he)
  · exact decTokToken_labels (s := { s with inFifo := rest }) hp
      (h.leave rfl rfl rfl fun _ _ he => nomatch hp.symm.trans he) htok
  · exact walkBits_labels (s := endWalk { s with outFifo := _, outbytes := _, emitted := _ })
      (h.leave rfl rfl rfl fun _ _ he => nomatch hp.symm.trans he) hwalk

/-! ### Every step -/

theorem labelsInv_iff : s.LabelsInv ↔ (Runs .gencode s → s.treeValid = true) ∧ DecodeLabels s := by
  constructor
  · rintro ⟨hgen, hvalid, hheader⟩
    refine ⟨hgen, hvalid, fun pos hb hp => ?_⟩
    obtain ⟨honce, hseen, hsymbols⟩ := hheader pos hb hp
    exact ⟨honce, hseen, hsymbols⟩
  · rintro ⟨hgen, hvalid, hheader⟩
    refine ⟨hgen, hvalid, fun pos hb hp => ?_⟩
    obtain ⟨honce, hseen, hsymbols⟩ := hheader pos hb hp
    exact ⟨honce, hseen, hsymbols⟩

theorem buildTree_distinctLeaves (hnode : s.node = (buildTree s.freq).1) (hroot : s.root = (buildTree s.freq).2) :
    DistinctLeaves s := by
  intro r tree hr htree
  obtain ⟨m, hloop⟩ := buildTree_root (hroot.symm.trans hr)
  have hperm : (leafSymbols tree).Perm (presentSymbols s.freq) :=
    Multiset.coe_eq_coe.mp ((label_of_wholeTree (hnode ▸ htree)).symm.trans hloop.label_root)
  exact hperm.nodup_iff.mpr (presentSymbols_nodup _)

/-- A valid tree keeps its labels: only BUILD writes one. -/
theorem exec_distinctLeaves (hb : s.busy = true) (hc : c ≠ .decode) (h : exec c s = .next t)
    (hs : s.treeValid = true → DistinctLeaves s) : t.treeValid = true → DistinctLeaves t := by
  have hf := exec_microStepFrame hb h
  cases c
  case decode => exact absurd rfl hc
  case build =>
    cases (runCommand_singleStep_cases hb h).2
    exact fun _ => buildTree_distinctLeaves rfl rfl
  case clrfreq => cases (runCommand_singleStep_cases hb h).2; exact nofun
  case wrfreq b =>
    cases (runCommand_singleStep_cases hb h).2
    unfold wrfreqBody
    split
    · exact nofun
    · exact hs
  all_goals rw [hf]; exact hs

theorem exec_labelsInv (hsound : s.SoundInv) (hs : s.LabelsInv) (hrun : Runs c s) (h : exec c s = .next t) :
    t.LabelsInv := by
  obtain ⟨hgen, hlabels⟩ := labelsInv_iff.mp hs
  refine labelsInv_iff.mpr ⟨fun ht => ?gencode, ?labels⟩
  case gencode =>
    obtain rfl := hrun.of_exec h ht
    exact ((exec_keeps_validity hrun.1 h).1 rfl).trans (hgen hrun)
  case labels =>
    by_cases hc : c = .decode
    · subst hc
      exact decodeBody_labels hrun.1 (hsound.decodeSound hrun) hlabels ((runCommand_busy hrun.1).symm.trans h)
    · refine ⟨exec_distinctLeaves hrun.1 hc h hlabels.valid, fun pos hb hp => ?_⟩
      obtain rfl | hstop | hown := exec_stopsOrOwns hrun.1 h
      · exact hlabels.header pos hb hp
      · exact absurd (hstop.symm.trans hb) Bool.false_ne_true
      · rw [hp] at hown
        exact absurd (of_decide_eq_true hown) hc

theorem labelsInv_of_stopped (hb : s.busy = false) (h : s.treeValid = true → DistinctLeaves s) : s.LabelsInv :=
  labelsInv_iff.mpr ⟨fun hr => absurd (hb.symm.trans hr.1) Bool.false_ne_true, h,
    fun _ hb' => absurd (hb.symm.trans hb') Bool.false_ne_true⟩

theorem Presented.labelsInv (hs : s.LabelsInv) (h : Presented s t) : t.LabelsInv := by
  obtain ⟨-, hvalid, -⟩ := labelsInv_iff.mp hs
  obtain ⟨e, rfl⟩ | ⟨c, hc, hp, rfl⟩ := h
  · exact labelsInv_of_stopped rfl hvalid
  · refine labelsInv_iff.mpr ⟨fun ht => ?gencode, ?valid, ?header⟩
    case gencode =>
      obtain rfl := Runs.of_accept hc ht
      exact hp
    case valid =>
      cases c
      case count | decode => exact nofun
      all_goals exact hvalid
    case header => cases c <;> exact fun _ _ hpoint => nomatch hpoint

end Sys2Proof.Machine

namespace Sys2Proof.Proofs

open Sys2Proof.Machine

/-- Settles O51, by the kind of step: the tree DECODE completes has each record once (R337) and each symbol once
(R336 d), and BUILD's has the present symbols. -/
theorem stepKeepsLeafSymbolsDistinct : Obligations.StepKeepsLeafSymbolsDistinct := by
  intro s t hsound hlabels h
  refine (step_induction (P := fun s => s.SoundInv ∧ s.LabelsInv) ?host ?reset ?idle ?micro ⟨hsound, hlabels⟩ h).2
  case host =>
    rintro s t ⟨hsound, hlabels⟩ he
    refine ⟨he.soundInv hsound, ?_⟩
    rw [he.frame]
    exact ⟨hlabels.gencode, hlabels.valid, hlabels.header⟩
  case reset => exact fun s _ => ⟨soundInv_of_stopped rfl nofun rfl, labelsInv_of_stopped rfl nofun⟩
  case idle => exact fun s t hs hb hp => ⟨hp.soundInv hs.1 hb, hp.labelsInv hs.2⟩
  case micro => exact fun c s t hs hrun hexec => ⟨exec_soundInv hs.1 hrun hexec, exec_labelsInv hs.1 hs.2 hrun hexec⟩

end Sys2Proof.Proofs
end

section
/-! PROOFS. 44_decoder.md: DECODE's output, symbol by symbol (R339 to R344). -/

namespace Sys2Proof.Machine

variable {s t : State} {tree l r : Tree} {x b : Byte} {p : Bits} {c i : Fin 511} {n : Nat} {k : Token}
  {rest : List Token}

/-! ### The micro-steps of the degenerate output and the token loop -/

theorem decodeBody_degen_wait (hp : s.point = .decDegen) (hr : s.root = some i)
    (h : s.outDepth.toNat ≤ s.outFifo.length) : decodeBody s = .next s := by
  simp [decodeBody, hp, hr, pushOut_full h]

theorem decodeBody_degen_push (hp : s.point = .decDegen) (hr : s.root = some i)
    (h : s.outFifo.length < s.outDepth.toNat) :
    decodeBody s = .next (degenPushed { s with
      outFifo := s.outFifo ++ [(s.node[i]).sym], outbytes := s.outbytes + 1 }) := by
  simp [decodeBody, hp, hr, pushOut_room h]

theorem decodeBody_tok_wait (hp : s.point = .decTok) (h : s.inFifo = []) : decodeBody s = .next s := by
  simp [decodeBody, hp, popIn_nil h]

theorem decodeBody_tok_pop (hp : s.point = .decTok) (h : s.inFifo = k :: rest) :
    decodeBody s = decTokToken k { s with inFifo := rest } := by
  simp [decodeBody, hp, popIn_cons h]

theorem decodeBody_push_wait (hp : s.point = .decPush) (hc : s.cur = some c)
    (h : s.outDepth.toNat ≤ s.outFifo.length) : decodeBody s = .next s := by
  simp [decodeBody, hp, hc, pushOut_full h]

/-- The leaf's symbol is pushed and the walk starts again at ROOT (R340). -/
def emitSymbol (c : Fin 511) (s : State) : State :=
  { s with
    outFifo := s.outFifo ++ [(s.node[c]).sym]
    outbytes := s.outbytes + 1
    emitted := s.emitted + 1
    walk := none }

theorem decodeBody_push_room (hp : s.point = .decPush) (hc : s.cur = some c)
    (h : s.outFifo.length < s.outDepth.toNat) : decodeBody s = walkBits s.dbits.toNat (emitSymbol c s) := by
  rw [decodeBody, hp]
  simp only [hc, pushOut_room h]
  rfl

theorem degenPushed_eq (s : State) : degenPushed s =
    { s with emitted := s.emitted + 1, point := if s.emitted + 1 < s.dcount then .decDegen else .decTok } := by
  unfold degenPushed
  dsimp only
  split <;> rfl

/-! ### Paths and subtrees by their first bit (42_code_table.md R262) -/

/-- The subtree a bit leads to. -/
def branch (b : Bool) (l r : Tree) : Tree := if b then r else l

theorem mem_leafPaths_leaf : (x, p) ∈ leafPaths (.leaf b) ↔ x = b ∧ p = [] := by
  simp [leafPaths]

theorem mem_leafPaths_node : (x, p) ∈ leafPaths (.node l r) ↔
    ∃ d q, p = d :: q ∧ (x, q) ∈ leafPaths (branch d l r) := by
  simp [leafPaths, branch, and_comm, eq_comm]

theorem below_node (b : Bool) (p : Bits) : Claims.below (.node l r) (b :: p) = Claims.below (branch b l r) p := by
  cases b <;> rfl

theorem below_nil (tree : Tree) : Claims.below tree [] = some tree := by
  cases tree <;> rfl

theorem below_leaf_ne_node (p : Bits) : Claims.below (.leaf x) p ≠ some (.node l r) := by
  cases p <;> nofun

/-- Bits lead through a leaf or stop inside the tree. -/
theorem leafPath_or_below (tree : Tree) (p : Bits) :
    (∃ x q, (x, q) ∈ leafPaths tree ∧ q <+: p) ∨ ∃ l r, Claims.below tree p = some (.node l r) := by
  induction p generalizing tree with
  | nil =>
    cases tree with
    | leaf x => exact .inl ⟨x, [], List.mem_singleton.mpr rfl, List.nil_prefix⟩
    | node l r => exact .inr ⟨l, r, rfl⟩
  | cons b p ih =>
    cases tree with
    | leaf x => exact .inl ⟨x, [], List.mem_singleton.mpr rfl, List.nil_prefix⟩
    | node l r =>
      obtain ⟨x, q, hx, hq⟩ | ⟨l', r', h⟩ := ih (branch b l r)
      · exact .inl ⟨x, b :: q, mem_leafPaths_node.mpr ⟨b, q, rfl, hx⟩, (List.prefix_cons_inj b).mpr hq⟩
      · exact .inr ⟨l', r', (below_node b p).trans h⟩

/-! ### The walk (R340, R342) -/

theorem walkBits_done (h : ¬s.emitted < s.dcount) : walkBits n s = .next (endToken s) := by
  cases n with
  | zero => rfl
  | succ n => rw [walkBits, if_neg h]

/-- A walk whose bits begin with the path of a leaf stops at that leaf, with the bits after the path left. -/
theorem walkBits_leafPath (hc : s.cur = some c) (ht : wholeTree s.node c = some tree) (he : s.emitted < s.dcount)
    (hx : (x, p) ∈ leafPaths tree) (hne : p ≠ []) (hp : p <+: bin n s.dbyte.toNat) :
    ∃ d, walkBits n s = .next { s with
        dbits := BitVec.ofNat 4 (n - p.length), walk := some d, point := .decPush } ∧
      (s.node[d]).leaf = true ∧ (s.node[d]).sym = x := by
  induction n generalizing s c tree p with
  | zero => exact absurd (List.prefix_nil.mp hp) hne
  | succ n ih =>
    cases tree with
    | leaf y => exact absurd (mem_leafPaths_leaf.mp hx).2 hne
    | node l r =>
      obtain ⟨b, q, rfl, hxq⟩ := mem_leafPaths_node.mp hx
      obtain ⟨rfl, hq⟩ := List.cons_prefix_cons.mp hp
      obtain ⟨d, hd, hwalk⟩ := walkBits_succ (k := n) hc ht he
      rw [hwalk, List.length_cons, Nat.succ_sub_succ]
      change wholeTree s.node d = some (branch (s.dbyte.getLsbD n) l r) at hd
      change (x, q) ∈ leafPaths (branch (s.dbyte.getLsbD n) l r) at hxq
      obtain ⟨hleaf, e⟩ | ⟨hinner, l', r', e⟩ := wholeTree_leaf hd <;> rw [e] at hxq hd
      · obtain ⟨rfl, rfl⟩ := mem_leafPaths_leaf.mp hxq
        rw [if_pos hleaf]
        exact ⟨d, rfl, hleaf, rfl⟩
      · rw [if_neg (by rw [hinner]; exact Bool.false_ne_true)]
        have hne' : q ≠ [] := by
          obtain ⟨b', q', rfl, -⟩ := mem_leafPaths_node.mp hxq
          exact List.cons_ne_nil b' q'
        exact ih (s := walkTo d { s with dbits := BitVec.ofNat 4 n }) rfl hd he hxq hne' hq

/-- A bit of a walk that stops inside the tree leads to a subtree in which it stops. -/
theorem walkBits_succ_below (hc : s.cur = some c) (ht : wholeTree s.node c = some tree) (he : s.emitted < s.dcount)
    (hb : Claims.below tree (bin (n + 1) s.dbyte.toNat) = some (.node l r)) :
    ∃ d tree', walkBits (n + 1) s = walkBits n (walkTo d { s with dbits := BitVec.ofNat 4 n }) ∧
      wholeTree s.node d = some tree' ∧ Claims.below tree' (bin n s.dbyte.toNat) = some (.node l r) := by
  cases tree with
  | leaf y => exact absurd hb (below_leaf_ne_node _)
  | node tl tr =>
    obtain ⟨d, hd, hwalk⟩ := walkBits_succ (k := n) hc ht he
    change wholeTree s.node d = some (branch (s.dbyte.getLsbD n) tl tr) at hd
    have hb' : Claims.below (branch (s.dbyte.getLsbD n) tl tr) (bin n s.dbyte.toNat) = some (.node l r) :=
      (below_node _ _).symm.trans hb
    refine ⟨d, _, ?_, hd, hb'⟩
    obtain ⟨-, e⟩ | ⟨hinner, -⟩ := wholeTree_leaf hd
    · exact absurd (e ▸ hb') (below_leaf_ne_node _)
    · rw [hwalk, if_neg (by rw [hinner]; exact Bool.false_ne_true)]

/-- A walk whose bits stop inside the tree waits there for more. -/
theorem walkBits_below (hc : s.cur = some c) (ht : wholeTree s.node c = some tree) (he : s.emitted < s.dcount)
    (hb : Claims.below tree (bin (n + 1) s.dbyte.toNat) = some (.node l r)) :
    ∃ d, walkBits (n + 1) s = .next { s with dbits := 0, walk := some d, point := .decTok } ∧
      wholeTree s.node d = some (.node l r) := by
  induction n generalizing s c tree with
  | zero =>
    obtain ⟨d, tree', hwalk, hd, hb'⟩ := walkBits_succ_below hc ht he hb
    obtain rfl : tree' = .node l r := Option.some.inj ((below_nil tree').symm.trans hb')
    exact ⟨d, hwalk, hd⟩
  | succ n ih =>
    obtain ⟨d, tree', hwalk, hd, hb'⟩ := walkBits_succ_below hc ht he hb
    rw [hwalk]
    exact ih (s := walkTo d { s with dbits := BitVec.ofNat 4 (n + 1) }) rfl hd he hb'

/-! ### The token loop on one token (R340, R343, R344) -/

/-- EMITTED below the count is not the count. -/
theorem ne_of_lt_count {e m : Word} (h : e < m) : e ≠ m := by bv_omega

theorem exec_tokByte (hb : s.busy = true) (hp : s.point = .decTok) (hin : s.inFifo = .data b :: rest)
    (he : s.emitted < s.dcount) : exec .decode s = walkBits 8 (popByte b rest s) := by
  rw [exec_decode_busy hb, decodeBody_tok_pop hp hin]
  exact if_neg (ne_of_lt_count he)

theorem decTokToken_extra (h : s.emitted = s.dcount) : decTokToken (.data b) s = .next { s with extra := true } :=
  if_pos h

/-- At EOS inside a walk the output is truncated inside a symbol (R344). -/
theorem decodeEnd_insideWalk (h : s.emitted < s.dcount) (hc : s.cur ≠ s.root) : decodeEnd s =
    finish (endWalk { s with trunc := true, partialEnd := true, dstate := .done }) := by
  rw [decodeEnd, decide_eq_true h, decide_eq_true hc, Bool.and_true, Bool.or_true, Bool.or_true]

/-- At EOS between two symbols the output is truncated. -/
theorem decodeEnd_atRoot (h : s.emitted < s.dcount) (hc : s.cur = s.root) : decodeEnd s =
    finish (endWalk { s with trunc := true, dstate := .done }) := by
  rw [decodeEnd, decide_eq_true h, decide_eq_false (not_not.mpr hc), Bool.and_false, Bool.or_true, Bool.or_false]

theorem decodeEnd_complete (h : ¬s.emitted < s.dcount) : decodeEnd s = finish (endWalk { s with dstate := .done }) := by
  rw [decodeEnd, decide_eq_false h, Bool.false_and, Bool.or_false, Bool.or_false]

end Sys2Proof.Machine

namespace Sys2Proof.Proofs

open Sys2Proof.Machine

/-- Settles O33: by the room in the output FIFO. -/
theorem degenerateOutputPushesTheSymbol : Obligations.DegenerateOutputPushesTheSymbol := by
  intro s r hb hp hr
  rw [exec_decode_busy hb]
  refine ⟨decodeBody_degen_wait hp hr, fun hroom => ?_⟩
  rw [decodeBody_degen_push hp hr hroom, degenPushed_eq]

/-- Settles O34: the walk follows the path bit by bit. -/
theorem dataTokenWalksToTheLeaf : Obligations.DataTokenWalksToTheLeaf := by
  intro s b rest c tree x p hb hp hin he hc ht hx hne hprefix
  rw [exec_tokByte hb hp hin he]
  exact walkBits_leafPath (s := popByte b rest s) hc ht he hx hne hprefix

/-- Settles O35: no bit of the byte leads to a leaf. -/
theorem dataTokenInsideAWalkWaitsForMore : Obligations.DataTokenInsideAWalkWaitsForMore := by
  intro s b rest c tree l r hb hp hin he hc ht hbelow
  rw [exec_tokByte hb hp hin he]
  exact walkBits_below (s := popByte b rest s) hc ht he hbelow

/-- Settles O36: the push ends the walk, and what is left of the byte is walked from ROOT. -/
theorem decodePushEmitsOneSymbol : Obligations.DecodePushEmitsOneSymbol := by
  intro s c hb hp hc he
  rw [exec_decode_busy hb]
  refine ⟨decodeBody_push_wait hp hc, fun hroom hlast => ?last, fun r tl tr hroom hbits hmore hr ht => ?more⟩
  case last =>
    rw [decodeBody_push_room hp hc hroom]
    obtain h0 | hdone := hlast
    · rw [h0]
      rfl
    · exact walkBits_done (s := emitSymbol c s) (by
        change ¬s.emitted + 1 < s.dcount
        bv_omega)
  case more =>
    have he' : (emitSymbol c s).emitted < (emitSymbol c s).dcount := by
      change s.emitted + 1 < s.dcount
      bv_omega
    rw [decodeBody_push_room hp hc hroom]
    refine ⟨fun x p hx hprefix => ?leaf, fun l r' hbelow => ?inner, leafPath_or_below _ _⟩
    case leaf =>
      have hne : p ≠ [] := by
        obtain ⟨b, q, rfl, -⟩ := mem_leafPaths_node.mp hx
        exact List.cons_ne_nil b q
      exact walkBits_leafPath (s := emitSymbol c s) hr ht he' hx hne hprefix
    case inner =>
      obtain ⟨n, hn⟩ : ∃ n, s.dbits.toNat = n + 1 :=
        Nat.exists_eq_succ_of_ne_zero fun h0 => hbits (BitVec.eq_of_toNat_eq h0)
      rw [hn] at hbelow ⊢
      exact walkBits_below (s := emitSymbol c s) hr ht he' hbelow

/-- Settles O37: by the head of the input FIFO. -/
theorem dataAfterTheLastSymbolSetsExtra : Obligations.DataAfterTheLastSymbolSetsExtra := by
  intro s hb hp
  rw [exec_decode_busy hb]
  refine ⟨decodeBody_tok_wait hp, fun b rest hin he => ?_⟩
  rw [decodeBody_tok_pop hp hin]
  exact decTokToken_extra he

/-- Settles O38: by the symbols still missing and the place of CUR. -/
theorem eosEndsTheDecode : Obligations.EosEndsTheDecode := by
  intro s rest hb hp hin
  rw [exec_decode_busy hb, decodeBody_tok_pop hp hin, decTokToken]
  exact ⟨fun he hcur => congrArg _ (decodeEnd_insideWalk (s := { s with inFifo := rest }) he hcur),
    fun he hcur => congrArg _ (decodeEnd_atRoot (s := { s with inFifo := rest }) he hcur),
    fun he => congrArg _ (decodeEnd_complete (s := { s with inFifo := rest }) he)⟩

end Sys2Proof.Proofs
end

section
/-! PROOFS. 44_decoder.md R349: from a sound state no step faults (R337, R342; 10_state.md R52). -/

namespace Sys2Proof.Machine

variable {s t : State} {c : Instr} {r : Result} {n : Nat}

theorem GoesOn.noFault (h : GoesOn r) : NoFault r := by
  obtain ⟨t, rfl⟩ := h
  exact fun f => nofun

/-! ### The bodies of the commands that wait at a FIFO -/

theorem countBody_next (hown : ownsPoint .count s.point = true) : GoesOn (countBody s) := by
  cases hp : s.point
  case accepted => exact ⟨_, countBody_accepted hp⟩
  case countPop =>
    obtain ⟨hin, -⟩ | ⟨k, rest, hin, -⟩ := popIn_cases s
    · exact ⟨s, countBody_wait hp hin⟩
    · exact ⟨_, countBody_pop hp hin⟩
  all_goals simp [hp, ownsPoint] at hown

theorem emithdrBody_next (hown : ownsPoint .emithdr s.point = true)
    (hready : s.point = .accepted → TreeReady s.node s.root) : GoesOn (emithdrBody s) := by
  cases hp : s.point
  case accepted =>
    cases hr : s.root with
    | none => exact ⟨_, emithdrBody_empty hp hr⟩
    | some i =>
      obtain ⟨tree, htree⟩ := hready hp i hr
      exact ⟨_, emithdrBody_tree hp hr htree⟩
  case hdrPush b rest =>
    obtain ⟨hfull, -⟩ | ⟨hroom, -⟩ := pushOut_cases b s
    · exact ⟨s, emithdrBody_wait hp hfull⟩
    · exact ⟨_, emithdrBody_push hp hroom⟩
  all_goals simp [hp, ownsPoint] at hown

theorem encodeBody_next (hown : ownsPoint .encode s.point = true) : GoesOn (encodeBody s) := by
  have hout := Nat.lt_or_ge s.outFifo.length s.outDepth.toNat
  cases hp : s.point
  case accepted => exact ⟨_, encodeBody_accepted hp⟩
  case encPop =>
    obtain ⟨hin, -⟩ | ⟨k, rest, hin, -⟩ := popIn_cases s
    · exact ⟨s, encodeBody_waitIn hp hin⟩
    · exact ⟨_, encodeBody_pop hp hin⟩
  case encPush =>
    obtain hroom | hfull := hout
    · exact ⟨_, encodeBody_push hp hroom⟩
    · exact ⟨s, encodeBody_waitOut (.inl hp) hfull⟩
  case encFlush =>
    obtain hroom | hfull := hout
    · exact ⟨_, encodeBody_flush hp hroom⟩
    · exact ⟨s, encodeBody_waitOut (.inr hp) hfull⟩
  all_goals simp [hp, ownsPoint] at hown

/-! ### DECODE -/

/-- A walk in a complete tree does not meet NONE (R342). -/
theorem walkBits_next (h : DecodePhase .decTok s) : GoesOn (walkBits n s) := by
  induction n generalizing s with
  | zero => exact ⟨_, rfl⟩
  | succ n ih =>
    by_cases hlt : s.emitted < s.dcount
    · obtain ⟨c, r, hcur, hroot, ⟨l, l', hc⟩, hinner⟩ := h (ne_of_lt_count hlt)
      obtain ⟨d, hd, hwalk⟩ := walkBits_succ (k := n) hcur hc hlt
      rw [hwalk]
      obtain ⟨hleaf, -⟩ | ⟨hn, l, l', e⟩ := wholeTree_leaf hd
      · rw [if_pos hleaf]
        exact ⟨_, rfl⟩
      · rw [if_neg (by rw [hn]; exact Bool.false_ne_true)]
        exact ih (s := walkTo d { s with dbits := _ }) fun _ =>
          ⟨d, r, rfl, hroot, ⟨l, l', hd.trans (congrArg some e)⟩, hinner⟩
    · exact ⟨_, walkBits_done hlt⟩

theorem decodeBody_next (hb : s.busy = true) (hs : DecodeSound s) : GoesOn (decodeBody s) := by
  have hphase := hs.phase hb
  have hin := popIn_cases s
  have hout := Nat.lt_or_ge s.outFifo.length s.outDepth.toNat
  cases hp : s.point <;> rw [hp] at hphase
  case accepted => exact ⟨_, decodeBody_accepted hp⟩
  case decCount k m =>
    obtain ⟨hin, -⟩ | ⟨tok, rest, hin, -⟩ := hin
    · exact ⟨s, decodeBody_count_wait hp hin⟩
    · exact ⟨_, decodeBody_count_pop hp hin⟩
  case decTree pos =>
    obtain ⟨hin, -⟩ | ⟨tok, rest, hin, -⟩ := hin
    · exact ⟨s, decodeBody_tree_wait hp hin⟩
    · exact ⟨_, decodeBody_tree_pop hp hin⟩
  case decDegen =>
    obtain ⟨i, hr⟩ := Option.ne_none_iff_exists'.mp hphase.2
    obtain hroom | hfull := hout
    · exact ⟨_, decodeBody_degen_push hp hr hroom⟩
    · exact ⟨s, decodeBody_degen_wait hp hr hfull⟩
  case decTok =>
    obtain ⟨hin, -⟩ | ⟨tok, rest, hin, -⟩ := hin
    · exact ⟨s, decodeBody_tok_wait hp hin⟩
    · rw [decodeBody_tok_pop hp hin]
      cases tok with
      | eos => exact ⟨_, rfl⟩
      | data b =>
        by_cases he : s.emitted = s.dcount
        · exact ⟨_, decTokToken_extra (s := { s with inFifo := rest }) he⟩
        · rw [decTokToken, if_neg (show ¬State.emitted { s with inFifo := rest } = _ from he)]
          exact walkBits_next (s := popByte b rest s) hphase
  case decPush =>
    obtain ⟨-, hcur, r, hroot, hinner⟩ := hphase
    obtain ⟨c, hc⟩ := Option.ne_none_iff_exists'.mp hcur
    obtain hroom | hfull := hout
    · rw [decodeBody_push_room hp hc hroom]
      exact walkBits_next (s := emitSymbol c s) fun _ => ⟨r, r, hroot, hroot, hinner, hinner⟩
    · exact ⟨s, decodeBody_push_wait hp hc hfull⟩
  all_goals exact hphase.elim

/-! ### Every step -/

/-- A running command of a sound state goes on. -/
theorem State.SoundInv.exec_next (hs : s.SoundInv) (hrun : Runs c s) : GoesOn (exec c s) := by
  have hown : ownsPoint c s.point = true := by
    obtain ⟨d, hd, hown⟩ := hs.point hrun.1
    exact hrun.unique ⟨hrun.1, hd⟩ ▸ hown
  by_cases hc : SingleStepCommand c
  · obtain ⟨t, ht, -⟩ := hc.ends_of_sound hs hrun
    exact ⟨t, ht⟩
  · have runs {p : Bool} {a : State → State} {body : State → Result} (h : GoesOn (body s)) :
        GoesOn (runCommand c p a body s) := (runCommand_busy hrun.1).symm ▸ h
    obtain rfl | rfl | rfl | rfl : c = .count ∨ c = .emithdr ∨ c = .encode ∨ c = .decode := by
      simpa only [SingleStepCommand, not_and_or, not_not] using hc
    · exact runs (countBody_next hown)
    · exact runs (emithdrBody_next hown fun hp => hs.tree.valid (hs.tree.emithdr hrun hp))
    · exact runs (encodeBody_next hown)
    · exact runs (decodeBody_next hrun.1 (hs.decodeSound hrun))

theorem State.SoundInv.engineTurn_next (hs : s.SoundInv) : GoesOn (engineTurn s) := by
  cases hb : s.busy with
  | false => exact ⟨s, by simp [engineTurn, hb]⟩
  | true =>
    obtain ⟨c, hc, -⟩ := hs.point hb
    rw [engineTurn_runs ⟨hb, hc⟩]
    exact hs.exec_next ⟨hb, hc⟩

/-- An idle engine accepts a command or raises an error (45_host_interface.md R380, R381). -/
theorem exec_idle_next (c : Instr) (hb : s.busy = false) : GoesOn (exec c s) := by
  cases c
  case rdnode k =>
    cases hr : refOfBits k with
    | none => exact ⟨_, by simp only [exec, execRdnode, hr, hb]; rfl⟩
    | some i => exact ⟨_, (execRdnode_some hr).trans (runCommand_idle hb)⟩
  all_goals exact ⟨_, runCommand_idle hb⟩

theorem cmdWrite_next (w : Word) (s : State) : GoesOn (cmdWrite w s) := by
  unfold cmdWrite
  split
  · exact ⟨_, rfl⟩
  · next hidle =>
    split
    · exact ⟨_, rfl⟩
    · next c _ => exact exec_idle_next c (by simp at hidle; exact hidle.1)

theorem hostWrite_next (off : BitVec 12) (v : Word) (s : State) : GoesOn (hostWrite off v s) := by
  unfold hostWrite
  split
  · exact ⟨_, rfl⟩
  · next reg _ =>
    cases reg
    case cmd => exact cmdWrite_next v s
    all_goals exact ⟨_, rfl⟩

theorem aligned32_noFault {width : Nat} {off : BitVec 12} (h : NoFault r) : NoFault (aligned32 width off r) := by
  unfold aligned32
  split
  · exact fun f => nofun
  · split
    · exact fun f => nofun
    · exact h

theorem State.SoundInv.runEvent_noFault (hs : s.SoundInv) (e : Event) : NoFault (runEvent e s) := by
  cases e with
  | rd width off => exact aligned32_noFault (GoesOn.noFault ⟨_, rfl⟩)
  | wr width off v => exact aligned32_noFault (hostWrite_next off v s).noFault
  | fetch off => exact fun f => nofun
  | engine => exact hs.engineTurn_next.noFault
  | hardReset => exact GoesOn.noFault ⟨_, rfl⟩

theorem State.SoundInv.sched (hs : s.SoundInv) (rest : List Event) : State.SoundInv { s with sched := rest } :=
  HostEffect.soundInv hs ⟨rfl, id, le_rfl⟩

end Sys2Proof.Machine

namespace Sys2Proof.Proofs

open Sys2Proof.Machine

/-- Settles O52: a sound engine's turn goes on at every point of its command, and a host's event never faults. -/
theorem soundEngineNeverFaults : Obligations.SoundEngineNeverFaults := by
  intro s hs
  refine ⟨?noFault, fun hsched => ?idle, fun rest hsched => ?engine⟩
  case noFault =>
    cases hsched : s.sched with
    | nil => rw [step_nil hsched]; exact hs.engineTurn_next.noFault
    | cons e rest => rw [step_cons hsched]; exact (hs.sched rest).runEvent_noFault e
  case idle => rw [step_nil hsched]; exact hs.engineTurn_next
  case engine => rw [step_cons hsched]; exact (hs.sched rest).engineTurn_next

end Sys2Proof.Proofs
end

section
/-! PROOFS. 45_host_interface.md: the register window, one rule for a step that reads and one for a step that writes
a register (R372, R373), the effect of each write (R376, R377, R380, R387), and acceptance (R382, R383). -/

namespace Sys2Proof.Machine

variable {s : State} {c : Instr} {r : Reg} {off : BitVec 12} {v : Word} {rest : List Event}

/-! ### The window (10_state.md R53, 20_memory.md R102) -/

/-- The offset of a register (R53). -/
def regOffset (r : Reg) : BitVec 12 :=
  match r with
  | .id => 0x00
  | .params => 0x04
  | .fifodepth => 0x08
  | .ctrl => 0x0C
  | .status => 0x10
  | .cmd => 0x14
  | .arg => 0x18
  | .res0 => 0x1C
  | .res1 => 0x20
  | .res2 => 0x24
  | .din => 0x28
  | .dout => 0x2C
  | .fifostat => 0x30
  | .total => 0x34
  | .nsym => 0x38
  | .root => 0x3C
  | .outbytes => 0x40
  | .emitted => 0x44
  | .dcount => 0x48

theorem regAt_regOffset (r : Reg) : regAt (regOffset r) = some r := by cases r <;> rfl

theorem regAt_eq_some_iff : regAt off = some r ↔ off = regOffset r := by
  refine ⟨fun h => ?_, fun h => h ▸ regAt_regOffset r⟩
  unfold regAt at h
  split at h
  case h_20 => cases h
  all_goals
    next hoff =>
    cases h
    exact BitVec.eq_of_toNat_eq hoff

theorem regOffset_aligned (r : Reg) : (regOffset r).toNat % 4 = 0 := by cases r <;> rfl

theorem regOffset_le (r : Reg) : (regOffset r).toNat ≤ 0x48 := by cases r <;> decide

/-- No register stands at a reserved word. -/
theorem regAt_reserved (h : Claims.ReservedOffset off) : regAt off = none := by
  refine Option.eq_none_iff_forall_ne_some.mpr fun r hr => ?_
  have hle := regAt_eq_some_iff.mp hr ▸ regOffset_le r
  obtain ⟨hge, -⟩ := h
  omega

/-! ### A step that is an aligned 32-bit access (20_memory.md R104) -/

theorem aligned32_of_aligned (h : off.toNat % 4 = 0) (a : Result) : aligned32 32 off a = a := by
  simp [aligned32, h]

theorem step_read (hsched : s.sched = .rd 32 off :: rest) (h : off.toNat % 4 = 0) :
    step s = .next (hostRead off { s with sched := rest }) :=
  (step_cons hsched).trans (aligned32_of_aligned h _)

theorem step_write (hsched : s.sched = .wr 32 off v :: rest) (h : off.toNat % 4 = 0) :
    step s = hostWrite off v { s with sched := rest } :=
  (step_cons hsched).trans (aligned32_of_aligned h _)

theorem hostRead_reserved (h : Claims.ReservedOffset off) (s : State) :
    hostRead off s = { s with reads := s.reads ++ [(off, 0)] } := by
  rw [hostRead, regAt_reserved h]

theorem hostWrite_reserved (h : Claims.ReservedOffset off) (v : Word) (s : State) : hostWrite off v s = .next s := by
  rw [hostWrite, regAt_reserved h]

theorem hostRead_register (r : Reg) (s : State) :
    hostRead (regOffset r) s = { readEffect r s with reads := s.reads ++ [(regOffset r, regValue r s)] } := by
  rw [hostRead, regAt_regOffset]

theorem hostWrite_register (r : Reg) (v : Word) (s : State) : hostWrite (regOffset r) v s = regWrite r v s := by
  rw [hostWrite, regAt_regOffset]

/-- A step that reads a register. -/
theorem step_readRegister (r : Reg) (hsched : s.sched = .rd 32 (regOffset r) :: rest) :
    step s = .next { readEffect r s with sched := rest, reads := s.reads ++ [(regOffset r, regValue r s)] } := by
  rw [step_read hsched (regOffset_aligned r), hostRead_register]
  cases r <;> rfl

/-- A step that writes a register. -/
theorem step_writeRegister (r : Reg) (hsched : s.sched = .wr 32 (regOffset r) v :: rest) :
    step s = regWrite r v { s with sched := rest } := by
  rw [step_write hsched (regOffset_aligned r), hostWrite_register]

/-! ### What a read returns (R372) -/

/-- Two fields side by side, as a number. -/
theorem append_eq_ofNat {m n : Nat} (x : BitVec m) (y : BitVec n) :
    x ++ y = BitVec.ofNat (m + n) (y.toNat + x.toNat * 2 ^ n) := by
  apply BitVec.eq_of_toNat_eq
  have hlt := (x ++ y).isLt
  rw [BitVec.toNat_append, ← Nat.shiftLeft_add_eq_or_of_lt y.isLt, Nat.shiftLeft_eq, Nat.add_comm] at hlt ⊢
  exact (Nat.mod_eq_of_lt hlt).symm

theorem fifodepthWord_eq (s : State) :
    fifodepthWord s = BitVec.ofNat 32 (s.inDepth.toNat + s.outDepth.toNat * 65536) :=
  append_eq_ofNat s.outDepth s.inDepth

theorem ctrlWord_eq (s : State) : ctrlWord s = BitVec.ofNat 32 (s.ieDone.toNat * 2 + s.ieErr.toNat * 4) := by
  unfold ctrlWord
  cases s.ieDone <;> cases s.ieErr <;> rfl

/-- The counts fit their fields, since no FIFO exceeds its 16-bit depth (10_state.md R65). -/
theorem fifostatWord_eq (hs : s.FifoInv) :
    fifostatWord s = BitVec.ofNat 32 (s.inFifo.length + s.outFifo.length * 65536) := by
  have hin : s.inFifo.length < 2 ^ 16 := hs.input.trans_lt s.inDepth.isLt
  have hout : s.outFifo.length < 2 ^ 16 := hs.output.trans_lt s.outDepth.isLt
  rw [fifostatWord, append_eq_ofNat, BitVec.toNat_ofNat, BitVec.toNat_ofNat, Nat.mod_eq_of_lt hin,
    Nat.mod_eq_of_lt hout]
  rfl

theorem doutWord_eq (b : Byte) : doutWord b = BitVec.ofNat 32 (0x100 + b.toNat) := by
  rw [Nat.add_comm]
  exact append_eq_ofNat (1 : BitVec 24) b

/-- Every register whose read has no effect: all but DOUT. -/
def tableRegs : List Reg :=
  [.id, .params, .fifodepth, .ctrl, .status, .cmd, .arg, .res0, .res1, .res2, .din, .fifostat, .total, .nsym, .root,
    .outbytes, .emitted, .dcount]

theorem tableRegs_ne_dout (h : r ∈ tableRegs) : r ≠ .dout := by
  rintro rfl
  exact absurd h (by decide)

/-- The table of R372 is the model's own reading of each register. -/
theorem readTable_eq (hs : s.FifoInv) :
    Claims.readTable s = tableRegs.map fun r => (regOffset r, regValue r s) := by
  simp only [tableRegs, List.map_cons, List.map_nil, regOffset, regValue, fifodepthWord_eq, ctrlWord_eq,
    fifostatWord_eq hs, ← BitVec.ofNat_toNat]
  unfold Claims.readTable
  cases s.root with
  | none => rfl
  | some i => rw [refBits_some]; rfl

/-! ### What a write does (R373) -/

theorem statusClear_eq (v : Word) (s : State) : statusClear v s = { s with
    done := if v.getLsbD 1 then false else s.done
    err := if v.getLsbD 2 then false else s.err
    errcode := if v.getLsbD 2 then 0 else s.errcode
    partialEnd := if v.getLsbD 11 then false else s.partialEnd
    trunc := if v.getLsbD 12 then false else s.trunc
    extra := if v.getLsbD 13 then false else s.extra
    inovf := if v.getLsbD 14 then false else s.inovf
    cmdrej := if v.getLsbD 15 then false else s.cmdrej } := by
  have clears (flag bit : Bool) : (flag && !bit) = if bit then false else flag := by cases bit <;> simp
  simp only [statusClear, clears]
  cases v.getLsbD 2 <;> rfl

theorem ctrlWrite_reset (h : v.getLsbD 0 = true) : ctrlWrite v s = resetHuff s := if_pos h

theorem ctrlWrite_set (h : v.getLsbD 0 = false) : ctrlWrite v s = { s with
    ieDone := v.getLsbD 1, ieErr := v.getLsbD 2
    inFifo := if v.getLsbD 3 then [] else s.inFifo, outFifo := if v.getLsbD 4 then [] else s.outFifo } :=
  if_neg (Bool.eq_false_iff.mp h)

theorem dinWrite_full (h : s.inDepth.toNat ≤ s.inFifo.length) : dinWrite v s = { s with inovf := true } :=
  if_neg (Nat.not_lt.mpr h)

theorem dinWrite_room (h : s.inFifo.length < s.inDepth.toNat) :
    dinWrite v s = { s with inFifo := s.inFifo ++ [dinToken v] } :=
  if_pos h

theorem dinToken_eos (h : v.getLsbD 8 = true) : dinToken v = .eos := if_pos h

theorem dinToken_data (h : v.getLsbD 8 = false) : dinToken v = .data (v.extractLsb' 0 8) :=
  if_neg (Bool.eq_false_iff.mp h)

theorem cmdWrite_rejected (h : s.busy = true ∨ s.err = true) : cmdWrite v s = .next { s with cmdrej := true } :=
  if_pos (Bool.or_eq_true_iff.mpr h)

theorem cmdWrite_command (hbusy : s.busy = false) (herr : s.err = false) (hc : decodeWord v = .ok c) :
    cmdWrite v s = exec c s := by
  simp [cmdWrite, hbusy, herr, hc]

/-- The registers a write does not change (R373). -/
def readOnlyRegs : List Reg :=
  [.id, .params, .fifodepth, .res0, .res1, .res2, .dout, .fifostat, .total, .nsym, .root, .emitted, .dcount]

theorem readOnlyOffsets_eq : Claims.readOnlyOffsets = readOnlyRegs.map regOffset := rfl

theorem regWrite_readOnly (h : r ∈ readOnlyRegs) (v : Word) (s : State) : regWrite r v s = .next s := by
  cases r
  case ctrl | status | cmd | arg | din | outbytes => exact absurd h (by decide)
  all_goals rfl

/-! ### Acceptance (R382, R383) -/

/-- The latches hold the command's opcode and index; DECODE's actions write DSTATE again. -/
theorem acceptActions_latch (c : Instr) (s : State) :
    acceptActions c (latch c { s with done := false }) = acceptActions c (Claims.latchedState c s) := by
  obtain ⟨-, hop, hidx⟩ := Laws.WordFields.commandWord_fields (indexOf c) (opcodeOf c)
  rw [latch, Claims.latchedState, encodeWord, hop, hidx]
  cases c <;> rfl

theorem runCommand_accepts {p : Bool} {a : State → State} {body : State → Result} (hb : s.busy = false)
    (hp : p = true) : runCommand c p a body s = .next (a (latch c { s with done := false })) := by
  rw [runCommand_idle hb, hp, accept_true]

/-- Every index but NONE names a record (30_encoding.md R145). -/
theorem refOfBits_of_ne_none {k : Idx} (h : k ≠ Config.noneIdx) : ∃ i, refOfBits k = some i := by
  have hne : k.toNat ≠ 511 := fun e => h (BitVec.eq_of_toNat_eq e)
  exact ⟨⟨k.toNat, by omega⟩, refOfBits_some rfl⟩

/-- A command presented to an idle engine with its precondition true is accepted. -/
theorem exec_accepts (hc : c.WellFormed) (hb : s.busy = false) (hp : precondition c s = true) :
    exec c s = .next (acceptActions c (Claims.latchedState c s)) := by
  rw [← acceptActions_latch]
  cases c
  case rdnode k =>
    obtain ⟨i, hi⟩ := refOfBits_of_ne_none hc
    exact (execRdnode_some hi).trans (runCommand_accepts hb hp)
  all_goals exact runCommand_accepts hb hp

end Sys2Proof.Machine

namespace Sys2Proof.Proofs

open Sys2Proof.Machine

/-- Settles O39: the table lists what each register but DOUT reads, and DOUT's read takes the head of the FIFO. -/
theorem readsReturnTheRegisterTable : Obligations.ReadsReturnTheRegisterTable := by
  intro s off rest hs hsched
  refine ⟨fun v hv => ?table, fun hreserved => ?reserved, fun hoff hempty => ?empty, fun b more hoff hbyte => ?byte⟩
  case table =>
    rw [readTable_eq hs] at hv
    obtain ⟨r, hr, hrv⟩ := List.mem_map.mp hv
    cases hrv
    rw [step_readRegister r hsched, readEffect, if_neg (tableRegs_ne_dout hr)]
  case reserved => rw [step_read hsched hreserved.2, hostRead_reserved hreserved]
  case empty =>
    subst hoff
    rw [step_readRegister .dout hsched]
    simp [readEffect, regValue, hempty, regOffset]
  case byte =>
    subst hoff
    rw [step_readRegister .dout hsched]
    simp [readEffect, regValue, hbyte, regOffset, doutWord_eq]

/-- Settles O43: each flag falls where its bit is 1, ERR with ERRCODE. -/
theorem statusWriteClearsTheWrittenOnes : Obligations.StatusWriteClearsTheWrittenOnes := by
  intro s v rest hsched
  rw [step_writeRegister .status hsched, regWrite, statusClear_eq]

/-- Settles O5: the write reaches `cmdWrite`, which finds the engine ready and the word legal. -/
theorem cmdWriteStepRunsTheDecodedCommand : Obligations.CmdWriteStepRunsTheDecodedCommand := by
  intro s w rest c hsched hbusy herr hc
  rw [step_writeRegister .cmd hsched]
  exact cmdWrite_command hbusy herr hc

/-- Settles O7: the rejection comes before the word is decoded. -/
theorem cmdWriteWhileBusyOrErrOnlySetsCmdrej : Obligations.CmdWriteWhileBusyOrErrOnlySetsCmdrej := by
  intro s w rest hsched hrejected
  rw [step_writeRegister .cmd hsched]
  exact cmdWrite_rejected hrejected

/-- Settles O10: every command is its latches and then its own acceptance actions. -/
theorem acceptanceLatchesAndActs : Obligations.AcceptanceLatchesAndActs := by
  intro s hb
  have accepts {c : Instr} (hc : c.WellFormed) (hp : precondition c s = true) := exec_accepts hc hb hp
  exact ⟨accepts trivial rfl, accepts trivial rfl, accepts trivial rfl, fun _ => accepts trivial rfl,
    fun _ => accepts trivial rfl, fun _ => accepts trivial rfl, fun _ hk => accepts hk rfl,
    fun htree => accepts trivial htree, fun htree hdec => accepts trivial (by simp [precondition, htree, hdec]),
    accepts trivial rfl, fun hcodes => accepts trivial hcodes, accepts trivial rfl⟩

/-- Settles O41: a reserved word has no register, and the write of a read-only register keeps the state. -/
theorem plainWritesHaveTheirTableEffect : Obligations.PlainWritesHaveTheirTableEffect := by
  intro s off v rest hsched
  refine ⟨fun hplain => ?plain, fun harg => ?arg, fun hbytes => ?bytes⟩
  case plain =>
    obtain hread | hreserved := hplain
    · rw [readOnlyOffsets_eq] at hread
      obtain ⟨r, hr, rfl⟩ := List.mem_map.mp hread
      rw [step_writeRegister r hsched, regWrite_readOnly hr]
    · rw [step_write hsched hreserved.2, hostWrite_reserved hreserved]
  case arg => exact step_writeRegister .arg (harg ▸ hsched)
  case bytes => exact step_writeRegister .outbytes (hbytes ▸ hsched)

/-- Settles O42, by bit 0 of the written word. -/
theorem ctrlWriteResetsOrSetsAndFlushes : Obligations.CtrlWriteResetsOrSetsAndFlushes := by
  intro s v rest hsched
  rw [step_writeRegister .ctrl hsched, regWrite]
  constructor
  · intro hreset
    rw [ctrlWrite_reset hreset]
    rfl
  · intro hset
    rw [ctrlWrite_set hset]

/-- Settles O44, by the room in the input FIFO and bit 8 of the written word. -/
theorem dinWriteAppendsOrDrops : Obligations.DinWriteAppendsOrDrops := by
  intro s v rest hsched
  rw [step_writeRegister .din hsched, regWrite]
  refine ⟨fun hfull => ?full, fun hroom heos => ?eos, fun hroom hdata => ?data⟩
  case full => rw [dinWrite_full (s := { s with sched := rest }) hfull.ge]
  case eos => rw [dinWrite_room (s := { s with sched := rest }) hroom, dinToken_eos heos]
  case data => rw [dinWrite_room (s := { s with sched := rest }) hroom, dinToken_data hdata]

end Sys2Proof.Proofs
end

section
/-! PROOFS. 60_exceptions.md: how a micro-step ends (R420, R422), DONE, ERR and ERRCODE (R423), `irq` (R418, R430), and
the errors raised in place of acceptance (R411, R412). -/

namespace Sys2Proof.Machine

variable {s t u : State} {c : Instr} {v w : Word}

/-! ### How a micro-step ends (R420, R422) -/

/-- The elements that say whether a command runs and how the last one ended: BUSY, DONE, ERR and ERRCODE. -/
def completion (s : State) : Bool × Bool × Bool × BitVec 4 := (s.busy, s.done, s.err, s.errcode)

theorem completion_eq_iff :
    completion t = completion s ↔ t.busy = s.busy ∧ t.done = s.done ∧ t.err = s.err ∧ t.errcode = s.errcode := by
  simp [completion]

/-- All that a micro-step can do to the completion elements of `s`: it leaves them, it finishes the command, or it
raises an error. -/
inductive MicroStepEnd (s : State) : State → Prop where
  | goesOn {u : State} (h : completion u = completion s) : MicroStepEnd s u
  | finishes {u : State} (h : completion u = completion s) : MicroStepEnd s (finish u)
  | raises {u : State} (e : HuffError) (h : completion u = completion s) : MicroStepEnd s (raiseError e u)

theorem wrfreqBody_end (b : Byte) (s : State) : MicroStepEnd s (wrfreqBody b s) := by
  unfold wrfreqBody
  split
  · exact .finishes rfl
  · exact .raises _ rfl

theorem gencodeBody_end (h : gencodeBody s = .next t) : MicroStepEnd s t := by
  obtain ⟨-, rfl⟩ | ⟨_, tr, -, -, rfl⟩ := gencodeBody_next_cases h
  · exact .finishes rfl
  · unfold gencodePaths
    split
    · exact .raises _ rfl
    · exact .finishes rfl

theorem countToken_end (k : Token) (h : completion u = completion s) : MicroStepEnd s (countToken k u) := by
  cases k with
  | eos => exact .finishes h
  | data b =>
    unfold countToken
    dsimp only
    split
    · exact .raises _ h
    · exact .goesOn h

theorem countBody_end (h : countBody s = .next t) : MicroStepEnd s t := by
  obtain rfl | ⟨-, rfl⟩ | ⟨-, k, rest, -, rfl⟩ := countBody_cases h
  · exact .goesOn rfl
  · exact .goesOn rfl
  · exact countToken_end k rfl

theorem hdrNext_end (bytes : List Byte) (h : completion u = completion s) : MicroStepEnd s (hdrNext bytes u) := by
  cases bytes with
  | nil => exact .finishes h
  | cons b rest => exact .goesOn h

theorem emithdrBody_end (h : emithdrBody s = .next t) : MicroStepEnd s t := by
  obtain rfl | ⟨-, tree, rfl, -⟩ | ⟨b, rest, -, -, rfl⟩ := emithdrBody_cases h
  · exact .goesOn rfl
  · exact hdrNext_end _ rfl
  · exact hdrNext_end rest rfl

theorem encNext_completion (s : State) : completion (encNext s) = completion s := by
  unfold encNext
  split <;> rfl

theorem encToken_end (k : Token) (h : completion u = completion s) : MicroStepEnd s (encToken k u) := by
  cases k with
  | eos =>
    unfold encToken
    dsimp only
    split
    · exact .finishes h
    · exact .goesOn h
  | data b =>
    unfold encToken
    dsimp only
    split
    · exact .goesOn ((encNext_completion _).trans h)
    · exact .raises _ h

theorem encodeBody_end (h : encodeBody s = .next t) : MicroStepEnd s t := by
  obtain rfl | ⟨-, rfl⟩ | ⟨-, k, rest, -, rfl⟩ | ⟨-, -, rfl⟩ | ⟨-, -, rfl⟩ := encodeBody_cases h
  · exact .goesOn rfl
  · exact .goesOn rfl
  · exact encToken_end k rfl
  · exact .goesOn (encNext_completion _)
  · exact .finishes rfl

theorem startStreaming_completion (s : State) : completion (startStreaming s) = completion s := by
  obtain ⟨_, -, e⟩ := startStreaming_eq s
  rw [e]
  rfl

theorem countDone_completion (n : Word) (s : State) : completion (countDone n s) = completion s := by
  unfold countDone
  dsimp only
  split
  · exact startStreaming_completion _
  · rfl

theorem decCountToken_end (l : Fin 4) (n : Word) (k : Token) (h : completion u = completion s) :
    MicroStepEnd s (decCountToken l n k u) := by
  cases k with
  | eos => exact .raises _ h
  | data b =>
    unfold decCountToken
    dsimp only
    split
    · exact .goesOn ((countDone_completion _ u).trans h)
    · exact .goesOn h

/-- The header bits of a token end DECODE with an error or leave it running, at whichever bit they stop. -/
theorem headerBits_end (n : Nat) (pos : TreePos) (h : completion u = completion s) :
    MicroStepEnd s (headerBits n pos u) := by
  induction n generalizing pos u with
  | zero => exact .goesOn h
  | succ n ih =>
    rw [headerBits]
    cases hbit : headerBit (u.dbyte.getLsbD n) pos { u with dbits := BitVec.ofNat 4 n } with
    | more pos' t => exact ih pos' ((congrArg completion (headerBit_more_frame hbit)).trans h)
    | complete t =>
      have ht : completion t = completion s := (congrArg completion (headerBit_complete_frame hbit)).trans h
      exact .goesOn ((startStreaming_completion t).trans ht)
    | malformed t =>
      obtain ⟨rfl, -⟩ := headerBit_malformed hbit
      exact .raises _ h

theorem decTreeToken_end (pos : TreePos) (k : Token) (h : completion u = completion s) :
    MicroStepEnd s (decTreeToken pos k u) := by
  cases k with
  | eos => exact .raises _ h
  | data b => exact headerBits_end 8 pos h

theorem degenPushed_completion (s : State) : completion (degenPushed s) = completion s := by
  unfold degenPushed
  dsimp only
  split <;> rfl

theorem walkBits_completion {n : Nat} (h : walkBits n s = .next t) : completion t = completion s := by
  obtain ⟨_, _, _, -, rfl⟩ := walkBits_frame n h
  rfl

theorem decTokToken_end {k : Token} (ht : decTokToken k u = .next t) (h : completion u = completion s) :
    MicroStepEnd s t := by
  cases k with
  | eos => cases ht; exact .finishes h
  | data b =>
    unfold decTokToken at ht
    dsimp only at ht
    split at ht
    · cases ht; exact .goesOn h
    · exact .goesOn ((walkBits_completion ht).trans h)

theorem decodeBody_end (h : decodeBody s = .next t) : MicroStepEnd s t := by
  obtain rfl | ⟨-, rfl⟩ | ⟨l, n, k, rest, -, -, rfl⟩ | ⟨pos, k, rest, -, -, rfl⟩ | ⟨-, r, -, -, rfl⟩ |
    ⟨-, k, rest, -, htok⟩ | ⟨-, c, -, -, hwalk⟩ := decodeBody_cases h
  · exact .goesOn rfl
  · exact .goesOn rfl
  · exact decCountToken_end l n k rfl
  · exact decTreeToken_end pos k rfl
  · exact .goesOn (degenPushed_completion _)
  · exact decTokToken_end htok rfl
  · exact .goesOn (walkBits_completion hwalk :)

theorem exec_end (hb : s.busy = true) (h : exec c s = .next t) : MicroStepEnd s t := by
  cases c
  case count => exact countBody_end ((runCommand_busy hb).symm.trans h)
  case emithdr => exact emithdrBody_end ((runCommand_busy hb).symm.trans h)
  case encode => exact encodeBody_end ((runCommand_busy hb).symm.trans h)
  case decode => exact decodeBody_end ((runCommand_busy hb).symm.trans h)
  case rdnode k => obtain ⟨-, r, -, rfl⟩ := rdnode_busy_cases hb h; exact .finishes rfl
  case gencode => exact gencodeBody_end (runCommand_singleStep_cases hb h).2
  case wrfreq b => cases (runCommand_singleStep_cases hb h).2; exact wrfreqBody_end b s
  all_goals cases (runCommand_singleStep_cases hb h).2; exact .finishes rfl

/-! ### DONE, ERR and ERRCODE (R423, 10_state.md R50) -/

/-- A raised error, where DONE was cleared before. -/
theorem raiseError_flagsInv (e : HuffError) (hdone : s.done = false) : (raiseError e s).FlagsInv := by
  refine ⟨?exclusive, ?code, e.toCode_le, nofun⟩
  case exclusive =>
    rintro ⟨h, -⟩
    exact absurd (hdone.symm.trans h) Bool.false_ne_true
  case code => exact iff_of_false e.toCode_ne_zero nofun

/-- Without an error, DONE may be set when no command runs. -/
theorem flagsInv_of_noError (herr : s.err = false) (hcode : s.errcode = 0) (hrun : s.busy = true → s.done = false) :
    s.FlagsInv := by
  refine ⟨?exclusive, iff_of_true hcode herr, ?range, fun hb => ⟨hrun hb, herr⟩⟩
  case exclusive =>
    rintro ⟨-, h⟩
    exact absurd (herr.symm.trans h) Bool.false_ne_true
  case range => rw [hcode]; decide

/-- Clearing DONE, or ERR together with ERRCODE, or nothing, keeps the flags right. -/
theorem State.FlagsInv.clear (hs : s.FlagsInv) (hb : t.busy = s.busy) (hdone : t.done = true → s.done = true)
    (herr : t.err = s.err ∧ t.errcode = s.errcode ∨ t.err = false ∧ t.errcode = 0) : t.FlagsInv := by
  have hidle (h : t.busy = true) : t.done = false :=
    Bool.eq_false_iff.mpr fun hd => Bool.false_ne_true ((hs.running (hb ▸ h)).1.symm.trans (hdone hd))
  obtain ⟨herr, hcode⟩ | ⟨herr, hcode⟩ := herr
  · refine ⟨?exclusive, by rw [hcode, herr]; exact hs.code, hcode ▸ hs.range, fun h => ⟨hidle h, ?running⟩⟩
    case exclusive => exact fun ⟨hd, he⟩ => hs.exclusive ⟨hdone hd, herr ▸ he⟩
    case running => exact herr.trans (hs.running (hb ▸ h)).2
  · exact flagsInv_of_noError herr hcode hidle

theorem State.FlagsInv.congr (hs : s.FlagsInv) (h : completion t = completion s) : t.FlagsInv := by
  obtain ⟨hb, hdone, herr, hcode⟩ := completion_eq_iff.mp h
  exact hs.clear hb (fun hd => hdone ▸ hd) (.inl ⟨herr, hcode⟩)

/-- A running command has set neither flag, so it ends with exactly one of them. -/
theorem MicroStepEnd.flagsInv (hs : s.FlagsInv) (hb : s.busy = true) (h : MicroStepEnd s t) : t.FlagsInv := by
  obtain ⟨hdone, herr⟩ := hs.running hb
  cases h with
  | goesOn h => exact hs.congr h
  | finishes h =>
    obtain ⟨-, -, he, hc⟩ := completion_eq_iff.mp h
    exact flagsInv_of_noError (he.trans herr) (hc.trans (hs.code.mpr herr)) nofun
  | raises e h =>
    obtain ⟨-, hd, -, -⟩ := completion_eq_iff.mp h
    exact raiseError_flagsInv e (hd.trans hdone)

theorem resetHuff_flagsInv (s : State) : (resetHuff s).FlagsInv := flagsInv_of_noError rfl rfl nofun

theorem acceptActions_completion (c : Instr) (s : State) : completion (acceptActions c s) = completion s := by
  cases c <;> rfl

/-- An accepted command starts with DONE and ERR 0 (45_host_interface.md R380). -/
theorem Presented.flagsInv (hs : s.FlagsInv) (herr : s.err = false) (h : Presented s t) : t.FlagsInv := by
  obtain ⟨e, rfl⟩ | ⟨c, -, -, rfl⟩ := h
  · exact raiseError_flagsInv e rfl
  · have hlatched : (latch c { s with done := false }).FlagsInv :=
      flagsInv_of_noError herr (hs.code.mpr herr) fun _ => rfl
    exact hlatched.congr (acceptActions_completion c _)

theorem hostRead_completion (off : BitVec 12) (s : State) : completion (hostRead off s) = completion s := by
  unfold hostRead readEffect
  split
  · rfl
  · split <;> rfl

theorem ctrlWrite_flagsInv (v : Word) (hs : s.FlagsInv) : (ctrlWrite v s).FlagsInv := by
  unfold ctrlWrite
  split
  · exact resetHuff_flagsInv s
  · exact hs.congr rfl

/-- The write of 1 to STATUS bit 2 clears ERR and ERRCODE together (R424). -/
theorem statusClear_flagsInv (v : Word) (hs : s.FlagsInv) : (statusClear v s).FlagsInv := by
  refine hs.clear ?busy (statusClear_accessEffect v s).done ?err <;> rw [statusClear_eq]
  case err =>
    cases v.getLsbD 2
    · exact .inl ⟨rfl, rfl⟩
    · exact .inr ⟨rfl, rfl⟩

theorem dinWrite_completion (v : Word) (s : State) : completion (dinWrite v s) = completion s := by
  unfold dinWrite
  split <;> rfl

theorem PlainWrite.flagsInv (hs : s.FlagsInv) (h : PlainWrite s t) : t.FlagsInv := by
  obtain rfl | ⟨v, rfl⟩ | ⟨v, rfl⟩ | ⟨v, rfl⟩ | ⟨v, rfl⟩ | rfl := h
  · exact hs
  · exact ctrlWrite_flagsInv v hs
  · exact statusClear_flagsInv v hs
  · exact hs.congr rfl
  · exact hs.congr (dinWrite_completion v s)
  · exact hs.congr rfl

/-! ### The interrupt line (R418, R430) -/

theorem irq_eq_false_iff (s : State) :
    s.irq = false ↔ (s.ieDone = true → s.done = false) ∧ (s.ieErr = true → s.err = false) := by
  simp [State.irq, Bool.and_comm s.done, Bool.and_comm s.err]

/-- `irq` rises at the end of a command only, by the flag that end sets: the other flag, if it was set before, does not
raise it. -/
theorem MicroStepEnd.irq_rises (h : MicroStepEnd s t) (hieDone : t.ieDone = s.ieDone) (hieErr : t.ieErr = s.ieErr)
    (hlow : s.irq = false) (hhigh : t.irq = true) :
    t.busy = false ∧ ((s.done = false ∧ t.done = true ∧ s.ieDone = true) ∨
      (s.err = false ∧ t.err = true ∧ s.ieErr = true)) := by
  obtain ⟨hdone, herr⟩ := (irq_eq_false_iff s).mp hlow
  rw [irq_iff, hieDone, hieErr] at hhigh
  cases h with
  | goesOn h =>
    obtain ⟨-, hd, he, -⟩ := completion_eq_iff.mp h
    rw [hd, he] at hhigh
    exact absurd (hlow.symm.trans ((irq_iff s).mpr hhigh)) Bool.false_ne_true
  | finishes h =>
    obtain ⟨-, -, he, -⟩ := completion_eq_iff.mp h
    obtain ⟨-, hie⟩ | ⟨hset, hie⟩ := hhigh
    · exact ⟨rfl, .inl ⟨hdone hie, rfl, hie⟩⟩
    · exact absurd ((he.trans (herr hie)).symm.trans hset) Bool.false_ne_true
  | raises e h =>
    obtain ⟨-, hd, -, -⟩ := completion_eq_iff.mp h
    obtain ⟨hset, hie⟩ | ⟨-, hie⟩ := hhigh
    · exact absurd ((hd.trans (hdone hie)).symm.trans hset) Bool.false_ne_true
    · exact ⟨rfl, .inr ⟨herr hie, rfl, hie⟩⟩

/-! ### Errors in place of acceptance (R411, R412) -/

theorem cmdWrite_illegal (hbusy : s.busy = false) (herr : s.err = false) (hw : ∀ c, decodeWord w ≠ .ok c) :
    cmdWrite w s = .next (raiseError .illegalCmd { s with done := false }) := by
  cases hd : decodeWord w with
  | error e => simp [cmdWrite, hbusy, herr, hd]
  | ok c => exact absurd hd (hw c)

theorem runCommand_refuses {p : Bool} {a : State → State} {body : State → Result} (hb : s.busy = false)
    (hp : p = false) : runCommand c p a body s = .next (raiseError .sequence { s with done := false }) := by
  rw [runCommand_idle hb, hp, accept_false]

/-- A command presented to an idle engine with its precondition false is not accepted. -/
theorem exec_refuses (hb : s.busy = false) (hp : precondition c s = false) :
    exec c s = .next (raiseError .sequence { s with done := false }) := by
  cases c
  case gencode | emithdr | encode => exact runCommand_refuses hb hp
  all_goals cases hp

end Sys2Proof.Machine

namespace Sys2Proof.Proofs

open Sys2Proof.Machine

/-- Settles O48, by the kinds of steps: the host's accesses clear flags only, an accepted command starts with DONE and
ERR both 0, and its end sets one of them. -/
theorem stepKeepsDoneAndErrApart : Obligations.StepKeepsDoneAndErrApart := by
  intro s t hs h
  obtain ⟨u, hu, hstep⟩ := step_cases h
  have hsame : completion u = completion s := by obtain rfl | ⟨rest, rfl⟩ := hu <;> rfl
  have hflags : u.FlagsInv := hs.congr hsame
  obtain ⟨-, rfl⟩ | ⟨c, hrun, hexec⟩ | ⟨off, rfl⟩ | hplain | rfl | rfl | ⟨-, -, rfl⟩ | ⟨w, c, hb, herr, -, hexec⟩ :=
    hstep
  · exact hflags
  · exact (exec_end hrun.1 hexec).flagsInv hflags hrun.1
  · exact hflags.congr (hostRead_completion off u)
  · exact hplain.flagsInv hflags
  · exact resetHuff_flagsInv u
  · exact hflags.congr rfl
  · exact raiseError_flagsInv _ rfl
  · have hpresented : Presented u t := (exec_idle_cases hb hexec).imp_right fun hacc => ⟨c, hacc⟩
    exact hpresented.flagsInv hflags herr

/-- Settles O60: a micro-step leaves the enables, and of the flags `irq` reads it sets one, at the command's end. -/
theorem irqFollowsCompletionAndErrorOnly : Obligations.IrqFollowsCompletionAndErrorOnly := by
  intro c s t hb hexec hlow hhigh
  obtain ⟨-, hieDone, hieErr, -⟩ := exec_keeps_host hexec
  exact (exec_end hb hexec).irq_rises hieDone hieErr hlow hhigh

/-- Settles O8: the write reaches `cmdWrite`, which finds the engine ready and no command in the word. -/
theorem illegalWordRaisesIllegalCmd : Obligations.IllegalWordRaisesIllegalCmd := by
  intro s w rest hsched hbusy herr hw
  rw [step_writeRegister .cmd hsched]
  exact cmdWrite_illegal hbusy herr hw

/-- Settles O9: each of the three premises is a false precondition. -/
theorem falsePreconditionRaisesSequence : Obligations.FalsePreconditionRaisesSequence := by
  intro s hb
  refine ⟨fun htree => exec_refuses hb htree, fun hhdr => exec_refuses hb ?emithdr,
    fun hcodes => exec_refuses hb hcodes⟩
  obtain htree | hdec := hhdr
  · simp [precondition, htree]
  · simp [precondition, hdec]

end Sys2Proof.Proofs
end

section
/-! PROOFS. 70_reset_and_hazards.md R460: the reset state; 95_test_vectors.md: the command words it writes out. -/

namespace Sys2Proof.Machine

variable {s : State} {v w : Word} {r : Reg}

/-! ### The reset state (R460) -/

theorem resetWith_fifoInv (d : Config.Depths) : (State.resetWith d).FifoInv := ⟨Nat.zero_le _, Nat.zero_le _⟩

theorem resetWith_countsInv (d : Config.Depths) : (State.resetWith d).CountsInv := countsInv_zero rfl rfl rfl

theorem statusWord_resetWith (d : Config.Depths) : statusWord (State.resetWith d) = 0 := by
  simp [statusWord, State.degen, State.irq, DState.toBits, State.resetWith]

theorem fifostatWord_resetWith (d : Config.Depths) : fifostatWord (State.resetWith d) = 0 := by
  simp [fifostatWord, State.resetWith]

/-- A register without a read effect is in the table with the value its read returns (R372). -/
theorem mem_readTable (hs : s.FifoInv) (hr : r ∈ tableRegs) (hv : regValue r s = v) :
    (regOffset r, v) ∈ Claims.readTable s := by
  rw [readTable_eq hs]
  exact List.mem_map.mpr ⟨r, hr, hv ▸ rfl⟩

theorem step_hardReset {rest : List Event} (hsched : s.sched = .hardReset :: rest) :
    step s = .next (resetHuff { s with sched := rest }) :=
  step_cons hsched

/-! ### Words that are no command (30_encoding.md R144) -/

theorem decodeWord_ne_ok_of_error {e : DecodeError} (h : decodeWord w = .error e) (c : Instr) :
    decodeWord w ≠ .ok c := by
  rw [h]
  nofun

end Sys2Proof.Machine

namespace Sys2Proof.Proofs

open Sys2Proof.Machine

/-- Settles O46: the tables are uniform, every other element is a literal of `State.resetWith`, and a read of ROOT or
FIFOSTAT returns what those literals encode. -/
theorem resetGivesEveryElementItsValue : Obligations.ResetGivesEveryElementItsValue := by
  refine ⟨fun d => ⟨fun b => ?symbols, fun i => ?arena, ?registers⟩, fun s rest hsched => step_hardReset hsched⟩
  case symbols => exact ⟨symGet_replicate b _, symGet_replicate b _, symGet_replicate b _⟩
  case arena => exact blankArena_get i
  case registers =>
    rw [statusWord_resetWith]
    repeat refine ⟨rfl, ?_⟩
    exact ⟨mem_readTable (r := .root) (resetWith_fifoInv d) (by decide) rfl,
      mem_readTable (r := .fifostat) (resetWith_fifoInv d) (by decide) (fifostatWord_resetWith d)⟩

/-- Settles O55: the counts are 0, the FIFOs empty, no code, tree or error is there, and no command runs. -/
theorem resetMeetsEveryInvariant : Obligations.ResetMeetsEveryInvariant := by
  intro d _
  refine ⟨resetWith_countsInv d, ?flags, resetWith_fifoInv d, ?packer, ?sound, ?labels, ?header, ?codes⟩
  case flags => exact flagsInv_of_noError rfl rfl nofun
  case packer => exact packerInv_of_stopped rfl (codesInv_of_blank rfl)
  case sound => exact soundInv_of_stopped rfl nofun rfl
  case labels => exact labelsInv_of_stopped rfl nofun
  case header => exact headerInv_of_stopped rfl (resetWith_countsInv d) (weighsTotal_of_invalid rfl)
  case codes => exact codesMatch_of_stopped rfl (codesMatch_of_invalid rfl)

/-- Settles O4: each legal word is its command's encoding, and the decoder has a reason to reject each other word. -/
theorem specWordsDecodeToTheirCommands : Obligations.SpecWordsDecodeToTheirCommands := by
  have legal {w : Word} {c : Instr} (hwf : c.WellFormed) (hw : w = encodeWord c) : decodeWord w = .ok c :=
    decodeWord_eq_ok_iff.mpr ⟨hwf, hw⟩
  refine ⟨legal trivial rfl, legal trivial rfl, legal trivial rfl, legal trivial rfl, legal (by decide) rfl,
    legal (by decide) rfl, legal trivial rfl, legal trivial rfl, legal trivial rfl, ?rejected⟩
  case rejected =>
    simp only [List.forall_mem_cons, List.not_mem_nil, false_imp_iff, implies_true, and_true]
    exact ⟨decodeWord_ne_ok_of_error (e := .indexRange) rfl, decodeWord_ne_ok_of_error (e := .indexRange) rfl,
      decodeWord_ne_ok_of_error (e := .reservedBits) rfl, decodeWord_ne_ok_of_error (e := .indexRange) rfl,
      decodeWord_ne_ok_of_error (e := .reservedOpcode) rfl⟩

end Sys2Proof.Proofs
end
